-- ==== Sys2Proof/Word.lean ====
section
/-! DEFINITION. The word types of the block (spec/00_scope.md R9, R12, R13). Bit 0 is the least
significant bit of every one of them. No operation of the block is signed. -/

namespace Sys2Proof

/-- One byte of the register window (R66). -/
abbrev Byte := BitVec 8

/-- A command word: every command is one 32-bit word (R9, R80). -/
abbrev CmdWord := BitVec 32

/-- A 64-bit register of the window, and one lane register (R9). -/
abbrev Reg64 := BitVec 64

/-- The code-word register, as wide as the widest code word C (R9). -/
abbrev CodeWord := BitVec 128

/-- A tuple of `N` lanes of `W` bits, as the pure codec functions take and give it (R17). -/
abbrev Lanes (W N : Nat) := Vector (BitVec W) N

end Sys2Proof
end

