-- ==== Sys2Proof/Config.lean ====
section
/-! DEFINITION. What an implementation of the block fixes.

The source fixes every parameter of R8 and the spec every parameter of R9; they are the constants below.
R10 leaves three parameters open: BASE (P1) is an argument of the platform's routing, held as data per copy
in `Sys2Proof/Machine/Platform.lean`; INSTANCES (P3) is the length of that platform's list of copies, at
least 1 by the platform's type; LATENCY (P2) is time, which R284 keeps out of a model of the block.
The spec leaves no result of any command open, so there is no free value here. -/

namespace Sys2Proof

/-- The largest lane count N, and the number of lane registers (R8, R9). -/
abbrev Config.maxLanes : Nat := 16

/-- The bound on N·W, and the width of the code-word register (R8, R9). -/
abbrev Config.maxTupleBits : Nat := 128

/-- The size of the register window in bytes (R9, R61). -/
abbrev Config.windowBytes : Nat := 0x1000

end Sys2Proof
end

