-- ==== Sys2Proof/Syntax.lean ====
section
/-! DEFINITION. The commands of the block: one constructor per row of spec/opcode_table.json
(30_encoding.md R90), with the fields that row uses. A field is the unsigned value of R81, so a count or a
code is a natural number; `Sys2Proof/WellFormed.lean` says which values the field's bits can hold. A value
outside a command's domain is no matter of syntax (R93): the command's own checks reject it. -/

namespace Sys2Proof

inductive Instr where
  /-- OP 0x00, R192: no operation. -/
  | nop
  /-- OP 0x01, R193: bind an encode descriptor. -/
  | binde (kind wc n repr : Nat)
  /-- OP 0x02, R194: bind a decode descriptor; `wc` is the code of the code-word width C. -/
  | bindd (kind wc n : Nat) (rf ru : Bool)
  /-- OP 0x03, R196: run the bound codec on one tuple. -/
  | exec
  /-- OP 0x08, R115: read bit `p` of CW. -/
  | getb (p : Nat)
  /-- OP 0x09, R116: write `v` to bit `p` of CW. -/
  | setb (p : Nat) (v : Bool)
  /-- OP 0x0A, R117: gray-encode the low bits of CW. -/
  | graye (wc : Nat)
  /-- OP 0x0B, R118: gray-decode the low bits of CW. -/
  | grayd (wc : Nat)
  /-- OP 0x0C, R119: order-preserving promotion of the low bits of CW. -/
  | ordp (wc repr : Nat)
  /-- OP 0x0D, R120: the inverse of ORDP. -/
  | ordd (wc repr : Nat)
  /-- OP 0x10, R143: interleave lanes into CW. -/
  | ilv (wc n : Nat)
  /-- OP 0x11, R144: deinterleave CW into lanes. -/
  | dil (wc n : Nat)
  /-- OP 0x12, R166: forward axis rotation of the lanes, in place. -/
  | rotf (wc n : Nat)
  /-- OP 0x13, R167: inverse axis rotation of the lanes, in place. -/
  | roti (wc n : Nat)
  deriving DecidableEq, Repr

end Sys2Proof
end

