-- ==== Sys2Proof/Machine/State.lean ====
section
/-! DEFINITION. The state of one block (10_state.md R20), the two fields of the model's own through which the
host's accesses reach it, the errors a command can raise, and the state after reset (R42). Plain data only. -/

namespace Sys2Proof.Machine

/-- A lane width W, by its width code (R8, R83): 0, 1, 2, 3 in DESC.WC (R26). -/
inductive LaneWidth where
  | w8 | w16 | w32 | w64
  deriving DecidableEq, Repr

/-- A code-word width C, by its width code (R8, R83): 0, 1, 2, 3, 4 in DESC.CC (R26). -/
inductive CodeWidth where
  | c8 | c16 | c32 | c64 | c128
  deriving DecidableEq, Repr

/-- The codec kind (R82): 0 and 1; the codes 2 and 3 are never stored in DESC (R26). -/
inductive CodecKind where
  | hilbert | morton
  deriving DecidableEq, Repr

/-- The direction of a descriptor (R26): 0 and 1. -/
inductive Direction where
  | encode | decode
  deriving DecidableEq, Repr

/-- The element representation (R85): 0, 1, 2; the code 3 is never stored in DESC (R26). -/
inductive ElemRepr where
  | uint | sint | float
  deriving DecidableEq, Repr

/-- The descriptor register DESC: its 18 defined bits (R26). The reserved bits [63:18] read 0 and hold nothing. -/
structure Desc where
  /-- DESC[1:0]. -/
  kind : CodecKind
  /-- DESC[2]. -/
  dir : Direction
  /-- DESC[5:3], the lane width code. -/
  wc : LaneWidth
  /-- DESC[10:6], the lane count. -/
  n : BitVec 5
  /-- DESC[12:11]. -/
  repr : ElemRepr
  /-- DESC[15:13], the code-word width code. -/
  cc : CodeWidth
  /-- DESC[16], `return_float` as given to BINDD. -/
  rf : Bool
  /-- DESC[17], `return_unsigned` as given to BINDD. -/
  ru : Bool
  deriving DecidableEq, Repr

/-- DESC = 0: every field has code 0. -/
def Desc.zero : Desc where
  kind := .hilbert
  dir := .encode
  wc := .w8
  n := 0
  repr := .uint
  cc := .c8
  rf := false
  ru := false

/-- The status register STATUS: its fields (R30). The reserved bits read 0 and hold nothing. -/
structure Status where
  /-- STATUS[2:0]: the error class of the last command. -/
  err : BitVec 3
  /-- STATUS[7:4]: the cause code of the last command's error. -/
  cause : BitVec 4
  /-- STATUS[8]: UNBOUND or BOUND (R32). -/
  bound : Bool
  /-- STATUS[9]: the last EXEC produced a null output (R33). -/
  onull : Bool
  /-- STATUS[10]: the bit the last GETB read (R34). -/
  bitv : Bool
  /-- STATUS[16]: the sticky error summary (R35). -/
  errs : Bool
  deriving DecidableEq, Repr

/-- The null-mask register NULLM: its 17 defined bits (R36). -/
structure NullMask where
  /-- NULLM[15:0], the lane-null mask. -/
  ln : BitVec 16
  /-- NULLM[16], the tuple-null flag. -/
  tn : Bool
  deriving DecidableEq, Repr

/-- What the host can send to the block (R11, R250). An offset is one of the window's 0x1000 bytes (R61); a
size is a number of bytes, of which only 4 and 8 are ever permitted (R68). -/
inductive BusEvent where
  /-- The reset signal, from its assertion to its release (R270). -/
  | reset
  /-- `WinRead(off, size)` (R16). -/
  | read (off : BitVec 12) (size : Nat)
  /-- `WinWrite(off, size, data)` (R16); a 4-byte write uses the low 32 bits of `data`. -/
  | write (off : BitVec 12) (size : Nat) (data : Reg64)
  deriving DecidableEq, Repr

/-- What the block answers on the host's bus: a bus error or not (R68), and the data of a read (0 for a
write, and for a refused read). A 4-byte read's data stands in the low 32 bits. -/
structure BusReply where
  error : Bool
  data : Reg64
  deriving DecidableEq, Repr

/-- The state. The first six fields are the complete architectural state of one block (R20); ID is a constant,
not state (R27), and stands in Machine/Window.lean. The last two are the model's own (log entry 1): they are
how the host's accesses, in the order the block receives them (R71, R73), reach a step that is a function of
the state alone, and what the last one was answered. -/
structure State where
  /-- CW, 128 bits (R22). -/
  cw : CodeWord
  /-- LANE[0..15], 64 bits each (R23). -/
  lanes : Vector Reg64 16
  /-- DESC (R26). -/
  desc : Desc
  /-- STATUS (R30). -/
  status : Status
  /-- NULLM (R36). -/
  nullm : NullMask
  /-- ECMD[31:0]: the word of the last command that raised (R37). Bits [63:32] read 0. -/
  ecmd : CmdWord
  /-- The model's own: what the host has sent and the block has not yet served, first received first. -/
  pending : List BusEvent
  /-- The model's own: the answer to the access served last; none before the first. -/
  reply : Option BusReply
  deriving DecidableEq, Repr

/-- The class of an error (R230). -/
inductive ErrorClass where
  | domain | input | internal | illegal
  deriving DecidableEq, Repr

/-- The errors a command can raise: one constructor per row of R231. -/
inductive CmdError where
  /-- DomainError cause 1: KIND is 2 or 3. -/
  | unknownKind
  /-- DomainError cause 2: the command does not accept the width code. -/
  | widthCode
  /-- DomainError cause 3: N is 0 or above 16. -/
  | laneCount
  /-- DomainError cause 4: N·W is above 128. -/
  | tupleWidth
  /-- DomainError cause 5: REPR is 3. -/
  | reprCode
  /-- DomainError cause 6: FLOAT with W neither 32 nor 64. -/
  | floatWidth
  /-- DomainError cause 7: no W with Table(W, N) = C. -/
  | noLaneWidth
  /-- DomainError cause 8: RF = 1 with W neither 32 nor 64. -/
  | floatDecode
  /-- InputError cause 1: a null lane within a non-null tuple, on an encode. -/
  | nullLane
  /-- InternalError cause 1: BINDD with a code-word width code of 5, 6 or 7. -/
  | codeWidth
  /-- InternalError cause 2: EXEC while BOUND = 0. -/
  | unbound
  /-- IllegalCommand cause 1: a reserved OP value. -/
  | reservedOpcode
  /-- IllegalCommand cause 2: a bit outside OP and the fields used is 1. -/
  | unusedBits
  deriving DecidableEq, Repr

/-- What stops the model. An error of a command is no fault: it is a next state (R237). -/
inductive Fault where
  /-- EXEC in a state with BOUND = 1 and a DESC whose lane count and lane width are no row of the width table
  (R190). SAFE: R29 says DESC never holds such values while BOUND = 1, and the spec gives EXEC no effect on
  them; the invariant `Sys2Proof.Safety.BlockInv` excludes it, so no run from reset meets it (log entry 6). -/
  | invalidDescriptor
  deriving DecidableEq, Repr

/-- What the model gives no meaning to. -/
inductive Refusal where
  /-- A command that has no meaning in the model yet. SAFE. No arm of `exec` raises it: all have a meaning. -/
  | notModelled (mnemonic : String)
  deriving DecidableEq, Repr

/-- The state after reset (R42, R271): every register 0, UNBOUND, no nulls; nothing sent by the host yet and
nothing answered. -/
def State.reset : State where
  cw := 0
  lanes := Vector.replicate 16 0
  desc := Desc.zero
  status :=
    { err := 0, cause := 0, bound := false, onull := false, bitv := false, errs := false }
  nullm := { ln := 0, tn := false }
  ecmd := 0
  pending := []
  reply := none

end Sys2Proof.Machine
end

