-- ==== Sys2Proof/Machine/Codec.lean ====
section
/-! DEFINITION. The pure functions of the block (00_scope.md R17): the gray code and the ordered map
(41_bit_primitives.md R110 to R114), the interleave engine and the Morton codec (42_morton.md R140 to R142), the
axis-rotation network and the Hilbert codec (43_hilbert.md R160 to R164). A value of w bits is a `BitVec w`, so a
function of the spec that is total on [0, 2^w) is total here. -/

namespace Sys2Proof.Machine

/-- The value of `n` bits whose bit `p` is `f p`. -/
def ofBits : (n : Nat) → (Fin n → Bool) → BitVec n
  | 0, _ => 0#0
  | n + 1, f => BitVec.cons (f (Fin.last n)) (ofBits n fun p => f p.castSucc)

/-- `gray_encode_w` (R110). -/
def grayEncode {w : Nat} (x : BitVec w) : BitVec w := x ^^^ (x >>> 1)

/-- The loop of R111: `while s < w: y <- y XOR (y >> s); s <- 2·s`, at most `fuel` times round. -/
def grayDecodeLoop {w : Nat} : (fuel s : Nat) → BitVec w → BitVec w
  | 0, _, y => y
  | fuel + 1, s, y => if s < w then grayDecodeLoop fuel (2 * s) (y ^^^ (y >>> s)) else y

/-- `gray_decode_w` (R111). The shift doubles from 1, so it reaches w in at most w rounds. -/
def grayDecode {w : Nat} (x : BitVec w) : BitVec w := grayDecodeLoop w 1 x

/-- `ord_promote` (R113), at any width; the commands give it the widths of R119. -/
def ordPromote {w : Nat} (r : ElemRepr) (u : BitVec w) : BitVec w :=
  match r with
  | .uint => u
  | .sint => u ^^^ BitVec.twoPow w (w - 1)
  | .float => if u.getLsbD (w - 1) = false then u ^^^ BitVec.twoPow w (w - 1) else ~~~u

/-- `ord_demote` (R114). -/
def ordDemote {w : Nat} (r : ElemRepr) (u : BitVec w) : BitVec w :=
  match r with
  | .uint => u
  | .sint => u ^^^ BitVec.twoPow w (w - 1)
  | .float => if u.getLsbD (w - 1) = true then u ^^^ BitVec.twoPow w (w - 1) else ~~~u

/-- `interleave` (R140): bit p of Z is bit p / N of lane N−1−(p mod N), so Z[i·N + (N−1−j)] = L[j][i]; lane 0 is the
top bit of each digit (90_conflicts.md C1). -/
def interleave {W N : Nat} (L : Lanes W N) : BitVec (W * N) :=
  ofBits (W * N) fun p => (L.get p.modNat.rev).getLsbD p.divNat.val

/-- `deinterleave` (R141): L[j][i] = Z[i·N + (N−1−j)]. -/
def deinterleave {W N : Nat} (Z : BitVec (W * N)) : Lanes W N :=
  Vector.ofFn fun j => ofBits W fun i => Z.getLsbD (i.val * N + (N - 1 - j.val))

/-- `MortonEncode` (R142). -/
def mortonEncode {W N : Nat} (L : Lanes W N) : BitVec (W * N) := interleave L

/-- `MortonDecode` (R142). -/
def mortonDecode {W N : Nat} (Z : BitVec (W * N)) : Lanes W N := deinterleave Z

/-- One conditional stage of the rotation network (R160, R161), at the level Q = 2^k and lane i: reflect lane 0's low
bits, or exchange them with lane i's. -/
def rotStage {W N : Nat} (k : Nat) (i : Fin N) (X : Lanes W N) : Lanes W N :=
  let z : Fin N := ⟨0, i.pos⟩
  let Q := BitVec.twoPow W k
  let P := Q - 1#W
  if X.get i &&& Q ≠ 0#W then X.set z.val (X.get z ^^^ P) z.isLt
  else
    let t := (X.get z ^^^ X.get i) &&& P
    let Y : Lanes W N := X.set z.val (X.get z ^^^ t) z.isLt
    Y.set i.val (Y.get i ^^^ t) i.isLt

/-- One level of the forward network: the stages of Q = 2^k in lane order (R160). -/
def rotLevel {W N : Nat} (k : Nat) (X : Lanes W N) : Lanes W N :=
  (List.finRange N).foldl (fun Y i => rotStage k i Y) X

/-- One level of the inverse network: the stages of Q = 2^k in reverse lane order (R161). -/
def rotInvLevel {W N : Nat} (k : Nat) (X : Lanes W N) : Lanes W N :=
  (List.finRange N).foldr (fun i Y => rotStage k i Y) X

/-- The levels Q = 2^k, …, 2^1 in this order (R160). -/
def rotLevels {W N : Nat} : Nat → Lanes W N → Lanes W N
  | 0, X => X
  | k + 1, X => rotLevels k (rotLevel (k + 1) X)

/-- The levels Q = 2^1, …, 2^k in this order (R161). -/
def rotInvLevels {W N : Nat} : Nat → Lanes W N → Lanes W N
  | 0, X => X
  | k + 1, X => rotInvLevel (k + 1) (rotInvLevels k X)

/-- `ROT`, the forward axis-rotation network: W−1 levels, most significant first (R160). -/
def rot {W N : Nat} (X : Lanes W N) : Lanes W N := rotLevels (W - 1) X

/-- `ROT⁻¹`, the inverse axis-rotation network: W−1 levels, least significant first (R161). -/
def rotInv {W N : Nat} (X : Lanes W N) : Lanes W N := rotInvLevels (W - 1) X

/-- `HilbertEncode` (R163). -/
def hilbertEncode {W N : Nat} (L : Lanes W N) : BitVec (W * N) := grayDecode (interleave (rot L))

/-- `HilbertDecode` (R164). -/
def hilbertDecode {W N : Nat} (Z : BitVec (W * N)) : Lanes W N := rotInv (deinterleave (grayEncode Z))

/-- The encoder EXEC selects by DESC.KIND (R196). -/
def codecEncode {W N : Nat} (k : CodecKind) (L : Lanes W N) : BitVec (W * N) :=
  match k with
  | .hilbert => hilbertEncode L
  | .morton => mortonEncode L

/-- The decoder EXEC selects by DESC.KIND (R196). -/
def codecDecode {W N : Nat} (k : CodecKind) (Z : BitVec (W * N)) : Lanes W N :=
  match k with
  | .hilbert => hilbertDecode Z
  | .morton => mortonDecode Z

end Sys2Proof.Machine
end

