-- ==== Sys2Proof/Machine/Flags.lean ====
section
/-! DEFINITION. The fields of STATUS: what each error writes there (60_exceptions.md R230, R231), and every write of
a flag (10_state.md R31 to R35). -/

namespace Sys2Proof.Machine

/-- The STATUS.ERR code of an error class (R230). -/
def ErrorClass.code : ErrorClass → BitVec 3
  | .domain => 1
  | .input => 2
  | .internal => 3
  | .illegal => 4

/-- The class of an error (R231). -/
def CmdError.cls : CmdError → ErrorClass
  | .unknownKind => .domain
  | .widthCode => .domain
  | .laneCount => .domain
  | .tupleWidth => .domain
  | .reprCode => .domain
  | .floatWidth => .domain
  | .noLaneWidth => .domain
  | .floatDecode => .domain
  | .nullLane => .input
  | .codeWidth => .internal
  | .unbound => .internal
  | .reservedOpcode => .illegal
  | .unusedBits => .illegal

/-- The STATUS.CAUSE code of an error (R231). -/
def CmdError.cause : CmdError → BitVec 4
  | .unknownKind => 1
  | .widthCode => 2
  | .laneCount => 3
  | .tupleWidth => 4
  | .reprCode => 5
  | .floatWidth => 6
  | .noLaneWidth => 7
  | .floatDecode => 8
  | .nullLane => 1
  | .codeWidth => 1
  | .unbound => 2
  | .reservedOpcode => 1
  | .unusedBits => 2

/-- ERR and CAUSE of a command that raised, and the sticky summary set (R232, R35). -/
def Status.failed (f : Status) (e : CmdError) : Status :=
  { f with err := e.cls.code, cause := e.cause, errs := true }

/-- ERR and CAUSE of a command that raised nothing; ERRS is left (R236). -/
def Status.succeeded (f : Status) : Status := { f with err := 0, cause := 0 }

/-- BOUND (R32). -/
def Status.setBound (f : Status) (b : Bool) : Status := { f with bound := b }

/-- ONULL (R33). -/
def Status.setOnull (f : Status) (b : Bool) : Status := { f with onull := b }

/-- BITV (R34). -/
def Status.setBitv (f : Status) (b : Bool) : Status := { f with bitv := b }

/-- A host write of `w1c` to bit 16: 1 clears ERRS, 0 leaves it (R35). -/
def Status.clearErrs (f : Status) (w1c : Bool) : Status := { f with errs := f.errs && !w1c }

/-- STATUS as the host reads it (R30), most significant field first. -/
def Status.word (f : Status) : Reg64 :=
  0#47 ++ BitVec.ofBool f.errs ++ 0#5 ++ BitVec.ofBool f.bitv ++ BitVec.ofBool f.onull ++ BitVec.ofBool f.bound
    ++ f.cause ++ 0#1 ++ f.err

end Sys2Proof.Machine
end

