-- ==== Sys2Proof/WellFormed.lean ====
section
/-! DEFINITION. Which instructions a command word can hold: each field within the bits R80 gives it.
R93 calls every such word well-formed, whatever values its fields hold. -/

namespace Sys2Proof

/-- Every field fits its bits: KIND 2 (R82), WC 3 (R83), N 5 (R84), REPR 2 (R85), P 7 (R87); RF, RU and V
are single bits by their type (R86, R88). -/
def Instr.wellFormed : Instr → Bool
  | .nop => true
  | .binde kind wc n repr => decide (kind < 4 ∧ wc < 8 ∧ n < 32 ∧ repr < 4)
  | .bindd kind wc n _ _ => decide (kind < 4 ∧ wc < 8 ∧ n < 32)
  | .exec => true
  | .getb p => decide (p < 128)
  | .setb p _ => decide (p < 128)
  | .graye wc => decide (wc < 8)
  | .grayd wc => decide (wc < 8)
  | .ordp wc repr => decide (wc < 8 ∧ repr < 4)
  | .ordd wc repr => decide (wc < 8 ∧ repr < 4)
  | .ilv wc n => decide (wc < 8 ∧ n < 32)
  | .dil wc n => decide (wc < 8 ∧ n < 32)
  | .rotf wc n => decide (wc < 8 ∧ n < 32)
  | .roti wc n => decide (wc < 8 ∧ n < 32)

end Sys2Proof
end

