-- ==== Sys2Proof/Decode.lean ====
section
/-! DEFINITION. The command encoding (30_encoding.md R80 to R94): the decoder, total on every 32-bit word and
on every list of bytes, and after it the encoder, both written from the one table of fields (R80) and the one
opcode map (R90). -/

namespace Sys2Proof

/-- The fields of a command word (R80), OP and RSV aside. -/
inductive Field where
  | kind | wc | n | repr | rf | ru | p | v
  deriving DecidableEq, Repr

/-- The lowest bit of a field (R80). -/
def Field.lo : Field → Nat
  | .kind => 5
  | .wc => 7
  | .n => 10
  | .repr => 15
  | .rf => 17
  | .ru => 18
  | .p => 19
  | .v => 26

/-- The number of bits of a field (R80). -/
def Field.width : Field → Nat
  | .kind => 2
  | .wc => 3
  | .n => 5
  | .repr => 2
  | .rf => 1
  | .ru => 1
  | .p => 7
  | .v => 1

/-- `cmd.f`: the unsigned value of a field of a command word (R81). -/
def Field.get (f : Field) (w : CmdWord) : Nat := (w.extractLsb' f.lo f.width).toNat

/-- `cmd.f` of a one-bit field, as a truth value: 1 is true (R86, R88). -/
def Field.flag (f : Field) (w : CmdWord) : Bool := w.getLsbD f.lo

/-- The word that holds the value `x` in one field and 0 elsewhere; nothing outside the field is touched. -/
def Field.put (f : Field) (x : Nat) : CmdWord := (BitVec.ofNat f.width x).setWidth 32 <<< f.lo

/-- The word with a one-bit field set to `b` and 0 elsewhere. -/
def Field.putFlag (f : Field) (b : Bool) : CmdWord := f.put b.toNat

/-- The bits of a field, all ones. -/
def Field.mask (f : Field) : CmdWord := (BitVec.allOnes f.width).setWidth 32 <<< f.lo

/-- The fourteen opcodes (R90). -/
inductive Opcode where
  | nop | binde | bindd | exec | getb | setb | graye | grayd | ordp | ordd | ilv | dil | rotf | roti
  deriving DecidableEq, Repr

/-- The OP value of an opcode (R90). -/
def Opcode.code : Opcode → Nat
  | .nop => 0x00
  | .binde => 0x01
  | .bindd => 0x02
  | .exec => 0x03
  | .getb => 0x08
  | .setb => 0x09
  | .graye => 0x0A
  | .grayd => 0x0B
  | .ordp => 0x0C
  | .ordd => 0x0D
  | .ilv => 0x10
  | .dil => 0x11
  | .rotf => 0x12
  | .roti => 0x13

/-- The opcode an OP value stands for; none for the reserved values 0x04 to 0x07, 0x0E, 0x0F and
0x14 to 0x1F (R92). -/
def Opcode.ofCode? : Nat → Option Opcode
  | 0x00 => some .nop
  | 0x01 => some .binde
  | 0x02 => some .bindd
  | 0x03 => some .exec
  | 0x08 => some .getb
  | 0x09 => some .setb
  | 0x0A => some .graye
  | 0x0B => some .grayd
  | 0x0C => some .ordp
  | 0x0D => some .ordd
  | 0x10 => some .ilv
  | 0x11 => some .dil
  | 0x12 => some .rotf
  | 0x13 => some .roti
  | _ => none

/-- The column "fields used" of the opcode map (R90). -/
def Opcode.fieldsUsed : Opcode → List Field
  | .nop => []
  | .binde => [.kind, .wc, .n, .repr]
  | .bindd => [.kind, .wc, .n, .rf, .ru]
  | .exec => []
  | .getb => [.p]
  | .setb => [.p, .v]
  | .graye => [.wc]
  | .grayd => [.wc]
  | .ordp => [.wc, .repr]
  | .ordd => [.wc, .repr]
  | .ilv => [.wc, .n]
  | .dil => [.wc, .n]
  | .rotf => [.wc, .n]
  | .roti => [.wc, .n]

/-- The bits a command of this opcode may set: OP and the fields used. Every other bit must be 0 (R91). -/
def Opcode.usedMask (o : Opcode) : CmdWord :=
  o.fieldsUsed.foldl (fun m f => m ||| f.mask) 0x1F#32

/-- The OP field of a command word, bits [4:0] (R80). -/
def opOf (w : CmdWord) : Nat := (w.extractLsb' 0 5).toNat

/-- The command an opcode and its fields make (R90). -/
def Opcode.instr (o : Opcode) (w : CmdWord) : Instr :=
  match o with
  | .nop => .nop
  | .binde => .binde (Field.kind.get w) (Field.wc.get w) (Field.n.get w) (Field.repr.get w)
  | .bindd => .bindd (Field.kind.get w) (Field.wc.get w) (Field.n.get w) (Field.rf.flag w) (Field.ru.flag w)
  | .exec => .exec
  | .getb => .getb (Field.p.get w)
  | .setb => .setb (Field.p.get w) (Field.v.flag w)
  | .graye => .graye (Field.wc.get w)
  | .grayd => .grayd (Field.wc.get w)
  | .ordp => .ordp (Field.wc.get w) (Field.repr.get w)
  | .ordd => .ordd (Field.wc.get w) (Field.repr.get w)
  | .ilv => .ilv (Field.wc.get w) (Field.n.get w)
  | .dil => .dil (Field.wc.get w) (Field.n.get w)
  | .rotf => .rotf (Field.wc.get w) (Field.n.get w)
  | .roti => .roti (Field.wc.get w) (Field.n.get w)

/-- Why a command word is no command (R94): the two causes of IllegalCommand. -/
inductive Illegal where
  /-- The OP value is reserved (R92): IllegalCommand cause 1. -/
  | reservedOpcode
  /-- A bit outside OP and the fields used is 1 (R91): IllegalCommand cause 2. -/
  | unusedBits
  deriving DecidableEq, Repr

/-- Decode one command word. Total (R94); the reserved opcode is checked first (R234 steps 1 and 2). -/
def decodeWord (w : CmdWord) : Except Illegal Instr :=
  match Opcode.ofCode? (opOf w) with
  | none => .error .reservedOpcode
  | some o => if w &&& ~~~o.usedMask ≠ 0#32 then .error .unusedBits else .ok (o.instr w)

/-- Why a list of bytes does not begin with a command. -/
inductive Reject where
  /-- Fewer than four bytes: a command is always four bytes (R94). -/
  | truncated
  /-- Four bytes that are no command. -/
  | illegal (e : Illegal)
  deriving DecidableEq, Repr

/-- The command word four bytes hold, the first at the lowest address (R66: little-endian). -/
def wordOfBytes (b0 b1 b2 b3 : Byte) : CmdWord := b3 ++ b2 ++ b1 ++ b0

/-- Decode the command at the head of a list of bytes, and give the bytes after it. Total. -/
def decode : List Byte → Except Reject (Instr × List Byte)
  | b0 :: b1 :: b2 :: b3 :: rest =>
    match decodeWord (wordOfBytes b0 b1 b2 b3) with
    | .ok i => .ok (i, rest)
    | .error e => .error (.illegal e)
  | _ => .error .truncated

/-- The four bytes of a command word, the first at the lowest address (R66). -/
def bytesOfWord (w : CmdWord) : List Byte :=
  [w.extractLsb' 0 8, w.extractLsb' 8 8, w.extractLsb' 16 8, w.extractLsb' 24 8]

/-- The opcode of an instruction (R90). -/
def Instr.opcode : Instr → Opcode
  | .nop => .nop
  | .binde _ _ _ _ => .binde
  | .bindd _ _ _ _ _ => .bindd
  | .exec => .exec
  | .getb _ => .getb
  | .setb _ _ => .setb
  | .graye _ => .graye
  | .grayd _ => .grayd
  | .ordp _ _ => .ordp
  | .ordd _ _ => .ordd
  | .ilv _ _ => .ilv
  | .dil _ _ => .dil
  | .rotf _ _ => .rotf
  | .roti _ _ => .roti

/-- The fields of an instruction, each in its place (R80, R90). -/
def Instr.fieldBits : Instr → CmdWord
  | .nop => 0#32
  | .binde kind wc n repr => Field.kind.put kind ||| Field.wc.put wc ||| Field.n.put n ||| Field.repr.put repr
  | .bindd kind wc n rf ru =>
    Field.kind.put kind ||| Field.wc.put wc ||| Field.n.put n ||| Field.rf.putFlag rf ||| Field.ru.putFlag ru
  | .exec => 0#32
  | .getb p => Field.p.put p
  | .setb p v => Field.p.put p ||| Field.v.putFlag v
  | .graye wc => Field.wc.put wc
  | .grayd wc => Field.wc.put wc
  | .ordp wc repr => Field.wc.put wc ||| Field.repr.put repr
  | .ordd wc repr => Field.wc.put wc ||| Field.repr.put repr
  | .ilv wc n => Field.wc.put wc ||| Field.n.put n
  | .dil wc n => Field.wc.put wc ||| Field.n.put n
  | .rotf wc n => Field.wc.put wc ||| Field.n.put n
  | .roti wc n => Field.wc.put wc ||| Field.n.put n

/-- The command word of an instruction: OP, the fields used, and 0 in every other bit (R80, R90, R91). -/
def encode (i : Instr) : CmdWord := BitVec.ofNat 32 i.opcode.code ||| i.fieldBits

/-- What the decoder reads from an instruction whose bits are `w`, numbered as spec/opcode_table.json numbers
them; bits at and above `nbits` are 0. -/
def decodeTableWord (nbits w : Nat) : Option Instr :=
  match decode (bytesOfWord (BitVec.ofNat 32 (w % 2 ^ nbits))) with
  | .ok (i, _) => some i
  | .error _ => none

end Sys2Proof
end

