-- ==== Sys2Proof/Machine/Operands.lean ====
section
/-! DEFINITION. The operand forms of the commands: width codes, kinds and representations (30_encoding.md R82 to
R85), the width table and its inverse (44_dispatch.md R190, R191), the lane shape every lane command works on with
its checks, and the lanes and the code word read as operands (10_state.md R24, 44_dispatch.md R196, R200). -/

namespace Sys2Proof.Machine

/-- W(WC) of a lane width (R83). -/
def LaneWidth.bits : LaneWidth → Nat
  | .w8 => 8
  | .w16 => 16
  | .w32 => 32
  | .w64 => 64

/-- The width code of a lane width (R83). -/
def LaneWidth.code : LaneWidth → BitVec 3
  | .w8 => 0
  | .w16 => 1
  | .w32 => 2
  | .w64 => 3

/-- The lane width a width code selects; none for a code above 3 (R83). -/
def LaneWidth.ofCode? : Nat → Option LaneWidth
  | 0 => some .w8
  | 1 => some .w16
  | 2 => some .w32
  | 3 => some .w64
  | _ => none

/-- The lane widths that have a float type: binary32 and binary64 (R8, R195). -/
def LaneWidth.isFloat : LaneWidth → Bool
  | .w8 => false
  | .w16 => false
  | .w32 => true
  | .w64 => true

/-- W(WC) of a code-word or operand width (R83). -/
def CodeWidth.bits : CodeWidth → Nat
  | .c8 => 8
  | .c16 => 16
  | .c32 => 32
  | .c64 => 64
  | .c128 => 128

/-- The width code of a code-word width (R83). -/
def CodeWidth.code : CodeWidth → BitVec 3
  | .c8 => 0
  | .c16 => 1
  | .c32 => 2
  | .c64 => 3
  | .c128 => 4

/-- The width a width code selects; none for the reserved codes 5, 6 and 7 (R83). -/
def CodeWidth.ofCode? : Nat → Option CodeWidth
  | 0 => some .c8
  | 1 => some .c16
  | 2 => some .c32
  | 3 => some .c64
  | 4 => some .c128
  | _ => none

/-- The code of a codec kind (R82). -/
def CodecKind.code : CodecKind → BitVec 2
  | .hilbert => 0
  | .morton => 1

/-- The codec kind of a code; none for 2 and 3 (R82). -/
def CodecKind.ofCode? : Nat → Option CodecKind
  | 0 => some .hilbert
  | 1 => some .morton
  | _ => none

/-- The code of a direction (R26). -/
def Direction.code : Direction → BitVec 1
  | .encode => 0
  | .decode => 1

/-- The code of a representation (R85). -/
def ElemRepr.code : ElemRepr → BitVec 2
  | .uint => 0
  | .sint => 1
  | .float => 2

/-- The representation of a code; none for 3 (R85). -/
def ElemRepr.ofCode? : Nat → Option ElemRepr
  | 0 => some .uint
  | 1 => some .sint
  | 2 => some .float
  | _ => none

/-- A representation is admissible at a lane width: FLOAT needs W in {32, 64} (R193, R119). -/
def ElemRepr.fits (r : ElemRepr) (w : LaneWidth) : Bool :=
  match r with
  | .uint => true
  | .sint => true
  | .float => w.isFloat

/-- One row of the width table (R190): a lane width, the lane counts from `lo` to `hi`, and the code-word
width. -/
structure WidthRow where
  w : LaneWidth
  lo : Nat
  hi : Nat
  c : CodeWidth
  deriving DecidableEq, Repr

/-- The rows of the width table, in the order of R190. -/
def widthRows : List WidthRow :=
  [ ⟨.w8, 1, 1, .c8⟩, ⟨.w8, 2, 2, .c16⟩, ⟨.w8, 3, 4, .c32⟩, ⟨.w8, 5, 8, .c64⟩, ⟨.w8, 9, 16, .c128⟩,
    ⟨.w16, 1, 1, .c16⟩, ⟨.w16, 2, 2, .c32⟩, ⟨.w16, 3, 4, .c64⟩, ⟨.w16, 5, 8, .c128⟩,
    ⟨.w32, 1, 1, .c32⟩, ⟨.w32, 2, 2, .c64⟩, ⟨.w32, 3, 4, .c128⟩,
    ⟨.w64, 1, 1, .c64⟩, ⟨.w64, 2, 2, .c128⟩ ]

/-- `Table(W, N)`, the code-word width; none outside the rows (R190). -/
def table (w : LaneWidth) (n : Nat) : Option CodeWidth :=
  (widthRows.find? fun r => decide (r.w = w ∧ r.lo ≤ n ∧ n ≤ r.hi)).map WidthRow.c

/-- `DecW(C, N)`, the lane width with Table(W, N) = C; none where there is none (R191). -/
def decW (c : CodeWidth) (n : Nat) : Option LaneWidth :=
  [LaneWidth.w8, .w16, .w32, .w64].find? fun w => decide (table w n = some c)

/-- An admissible pair (W, N): 1 ≤ N ≤ 16 and N·W ≤ 128 (R8). What the lane commands and EXEC work on. -/
structure LaneShape where
  w : LaneWidth
  n : Nat
  one_le : 1 ≤ n
  le_max : n ≤ Config.maxLanes
  fits : n * w.bits ≤ Config.maxTupleBits
  deriving DecidableEq, Repr

/-- The lane width of a shape, in bits. -/
abbrev LaneShape.W (sh : LaneShape) : Nat := sh.w.bits

/-- The checks of WC, N and N·W that BINDE, ILV, DIL, ROTF and ROTI share, in this order (R143, R193, R234). -/
def laneShape (wc n : Nat) : Except CmdError LaneShape :=
  match LaneWidth.ofCode? wc with
  | none => .error .widthCode
  | some w =>
    if hn : n < 1 ∨ n > Config.maxLanes then .error .laneCount
    else if hw : n * w.bits > Config.maxTupleBits then .error .tupleWidth
    else .ok { w := w, n := n, one_le := by omega, le_max := by omega, fits := by omega }

/-- The lane shape a descriptor holds; none where R29 does not hold of it. -/
def Desc.shape? (d : Desc) : Option LaneShape :=
  (laneShape d.wc.code.toNat d.n.toNat).toOption

/-- The operand of GRAYE and GRAYD: their width w (R117, R118). -/
def grayWidth (wc : Nat) : Except CmdError CodeWidth :=
  match CodeWidth.ofCode? wc with
  | none => .error .widthCode
  | some w => .ok w

/-- The operands of ORDP and ORDD: W and the representation, checked WC, REPR, float width (R119, R234). -/
def ordOperands (wc repr : Nat) : Except CmdError (LaneWidth × ElemRepr) :=
  match LaneWidth.ofCode? wc with
  | none => .error .widthCode
  | some w =>
    match ElemRepr.ofCode? repr with
    | none => .error .reprCode
    | some r => if r.fits w then .ok (w, r) else .error .floatWidth

/-- Lanes 0 to N−1 at width W: the low W bits of each lane register, the bits above ignored (R24). -/
def State.readLanes (s : State) (sh : LaneShape) : Lanes sh.W sh.n :=
  Vector.ofFn fun j => (s.lanes[j.val]'(Nat.lt_of_lt_of_le j.isLt sh.le_max)).setWidth sh.W

/-- CW[N·W−1:0], the bits above ignored (R144, R200). -/
def State.readCode (s : State) (sh : LaneShape) : BitVec (sh.W * sh.n) := s.cw.setWidth (sh.W * sh.n)

/-- `NULLM.LN AND (2^N − 1)`: the null bits of the tuple's N lanes; bits at j ≥ N are ignored (R196, R198). -/
def State.nullLanes (s : State) (n : Nat) : BitVec 16 := s.nullm.ln &&& BitVec.ofNat 16 (2 ^ n - 1)

end Sys2Proof.Machine
end

