-- ==== Sys2Proof/Machine/Ops.lean ====
section
/-! DEFINITION. The named operations over the registers, and the two ways a command ends: completing
(60_exceptions.md R236) and raising an error (R232, R233), the block's whole exception mechanism. It is no trap:
no pc is saved and no handler entered (R237), and there is no return from it, no command and nothing to restore
(R238); the next access is served as always. -/

namespace Sys2Proof.Machine

/-- DESC as the host reads it (R26), most significant field first. -/
def Desc.word (d : Desc) : Reg64 :=
  0#46 ++ BitVec.ofBool d.ru ++ BitVec.ofBool d.rf ++ d.cc.code ++ d.repr.code ++ d.n ++ d.wc.code ++ d.dir.code
    ++ d.kind.code

/-- NULLM as the host reads it (R36). -/
def NullMask.word (m : NullMask) : Reg64 := 0#47 ++ BitVec.ofBool m.tn ++ m.ln

/-- NULLM as a host write of `v` leaves it: bits above 16 are ignored (R36). -/
def NullMask.ofWord (v : Reg64) : NullMask := { ln := v.setWidth 16, tn := v.getLsbD 16 }

/-- `CW <- v`. -/
def State.writeCw (s : State) (v : CodeWord) : State := { s with cw := v }

/-- `for j in 0..N−1: LANE[j] <- zext_64(L[j])`; LANE[j] with j ≥ N keeps its value (R23, R25). -/
def State.writeLanes (s : State) (sh : LaneShape) (L : Lanes sh.W sh.n) : State :=
  { s with
    lanes := Vector.ofFn fun j : Fin 16 =>
      if h : j.val < sh.n then (L.get ⟨j.val, h⟩).setWidth 64 else s.lanes[j.val] }

/-- `LANE[j] <- v`, one lane register (R63). -/
def State.writeLane (s : State) (j : Fin 16) (v : Reg64) : State := { s with lanes := s.lanes.set j.val v }

/-- A flag of STATUS written by a command. -/
def State.mapStatus (s : State) (f : Status → Status) : State := { s with status := f s.status }

/-- A bind's two registers: DESC and BOUND (R28, R32). -/
def State.bindTo (s : State) (d : Desc) (b : Bool) : State := { s with desc := d, status := s.status.setBound b }

/-- R232: what every raise records. -/
def State.recordError (s : State) (w : CmdWord) (e : CmdError) : State :=
  { s with status := s.status.failed e, ecmd := w }

/-- A failed bind releases the descriptor: on DomainError and InternalError (R233). -/
def State.releaseDesc (s : State) : ErrorClass → State
  | .domain => s.bindTo Desc.zero false
  | .input => s
  | .internal => s.bindTo Desc.zero false
  | .illegal => s

/-- A failed EXEC clears ONULL: on InputError and InternalError (R233). -/
def State.dropNull (s : State) : ErrorClass → State
  | .domain => s
  | .input => s.mapStatus fun f => f.setOnull false
  | .internal => s.mapStatus fun f => f.setOnull false
  | .illegal => s

/-- The on-error effects of each command (R233). -/
def State.onError (s : State) (i : Instr) (c : ErrorClass) : State :=
  match i with
  | .nop => s
  | .binde _ _ _ _ => s.releaseDesc c
  | .bindd _ _ _ _ _ => s.releaseDesc c
  | .exec => s.dropNull c
  | .getb _ => s
  | .setb _ _ => s
  | .graye _ => s
  | .grayd _ => s
  | .ordp _ _ => s
  | .ordd _ _ => s
  | .ilv _ _ => s
  | .dil _ _ => s
  | .rotf _ _ => s
  | .roti _ _ => s

/-- `raise E(c)` in the command `i`: R232, then R233. The word recorded is the command's own, which its encoding
gives back bit for bit (log entry 7). -/
def State.raise (s : State) (i : Instr) (e : CmdError) : State :=
  (s.recordError (encode i) e).onError i e.cls

/-- The error of a word that is no command (R91, R92). -/
def illegalError : Illegal → CmdError
  | .reservedOpcode => .reservedOpcode
  | .unusedBits => .unusedBits

/-- IllegalCommand: R232 alone; no command takes part, so R233 adds nothing. -/
def State.raiseIllegal (s : State) (w : CmdWord) (e : Illegal) : State := s.recordError w (illegalError e)

/-- A command that raises nothing ends (R236). -/
def State.complete (s : State) : State := s.mapStatus Status.succeeded

/-- The end of the command `i`, begun in `s`: every check comes before any write (R235), so its checks and effects
give an error, which is raised in `s` itself, or the state with all its writes made, which completes. -/
def finish (i : Instr) (s : State) (r : Except CmdError State) : Host.Outcome State Fault Refusal :=
  match r with
  | .ok t => .next t.complete
  | .error e => .next (s.raise i e)

end Sys2Proof.Machine
end

