-- ==== Sys2Proof/Machine/Binding.lean ====
section
/-! DEFINITION. The dispatch unit's commands (44_dispatch.md): NOP, BINDE, BINDD, EXEC. -/

namespace Sys2Proof.Machine

/-- The descriptor BINDE makes, or the first check that fails: KIND, WC, N, N·W, REPR, float width (R193, R234).
After those checks Table(W, N) is defined (R190); outside its rows a bind is a DomainError (R203). -/
def encodeDesc (kind wc n repr : Nat) : Except CmdError Desc :=
  match CodecKind.ofCode? kind with
  | none => .error .unknownKind
  | some k =>
    match laneShape wc n with
    | .error e => .error e
    | .ok sh =>
      match ElemRepr.ofCode? repr with
      | none => .error .reprCode
      | some r =>
        if r.fits sh.w = false then .error .floatWidth
        else
          match table sh.w sh.n with
          | none => .error .tupleWidth
          | some c =>
            .ok { kind := k, dir := .encode, wc := sh.w, n := BitVec.ofNat 5 n, repr := r, cc := c,
                  rf := false, ru := false }

/-- The element representation a decode bind names: RF = 1 selects FLOAT whatever RU is (R194). -/
def decodeRepr (rf ru : Bool) : ElemRepr :=
  if rf then .float else if ru then .uint else .sint

/-- The descriptor BINDD makes, or the first check that fails: KIND, the C code, N, DecW, RF (R194, R234). -/
def decodeDesc (kind wc n : Nat) (rf ru : Bool) : Except CmdError Desc :=
  match CodecKind.ofCode? kind with
  | none => .error .unknownKind
  | some k =>
    match CodeWidth.ofCode? wc with
    | none => .error .codeWidth
    | some c =>
      if n < 1 ∨ n > Config.maxLanes then .error .laneCount
      else
        match decW c n with
        | none => .error .noLaneWidth
        | some w =>
          if rf = true ∧ w.isFloat = false then .error .floatDecode
          else
            .ok { kind := k, dir := .decode, wc := w, n := BitVec.ofNat 5 n, repr := decodeRepr rf ru, cc := c,
                  rf := rf, ru := ru }

/-- NOP (R192): ERR and CAUSE become 0, and nothing else changes. -/
def execNop (s : State) : Host.Outcome State Fault Refusal := finish .nop s (.ok s)

/-- BINDE (R193): write DESC and set BOUND; a failed bind releases the descriptor (R233). -/
def execBinde (kind wc n repr : Nat) (s : State) : Host.Outcome State Fault Refusal :=
  finish (.binde kind wc n repr) s ((encodeDesc kind wc n repr).map fun d => s.bindTo d true)

/-- BINDD (R194): write DESC and set BOUND; a failed bind releases the descriptor (R233). -/
def execBindd (kind wc n : Nat) (rf ru : Bool) (s : State) : Host.Outcome State Fault Refusal :=
  finish (.bindd kind wc n rf ru) s ((decodeDesc kind wc n rf ru).map fun d => s.bindTo d true)

/-- EXEC on a bound descriptor of shape (W, N): the null path, the null-lane check, then the codec (R196, R198). -/
def runCodec (s : State) (sh : LaneShape) : Except CmdError State :=
  if s.nullm.tn then .ok (s.mapStatus fun f => f.setOnull true)
  else
    match s.desc.dir with
    | .encode =>
      if s.nullLanes sh.n ≠ 0#16 then .error .nullLane
      else
        .ok ((s.writeCw ((codecEncode s.desc.kind (s.readLanes sh)).setWidth 128)).mapStatus
          fun f => f.setOnull false)
    | .decode =>
      .ok ((s.writeLanes sh (codecDecode s.desc.kind (s.readCode sh))).mapStatus fun f => f.setOnull false)

/-- EXEC (R196). Unbound, it raises; a bound DESC always has a shape (R29), and where it has none the model stops
(log entry 6). -/
def execExec (s : State) : Host.Outcome State Fault Refusal :=
  if s.status.bound then
    match s.desc.shape? with
    | none => .fault .invalidDescriptor
    | some sh => finish .exec s (runCodec s sh)
  else finish .exec s (.error .unbound)

end Sys2Proof.Machine
end

