-- ==== Sys2Proof/Machine/BitPrimitives.lean ====
section
/-! DEFINITION. The bit primitives (41_bit_primitives.md section 2): GETB, SETB, GRAYE, GRAYD, ORDP, ORDD. -/

namespace Sys2Proof.Machine

/-- GETB (R115): `STATUS.BITV <- CW[P]`. -/
def execGetb (p : Nat) (s : State) : Host.Outcome State Fault Refusal :=
  finish (.getb p) s (.ok (s.mapStatus fun f => f.setBitv (s.cw.getLsbD p)))

/-- SETB (R116): `CW <- (CW AND NOT_128(2^P)) OR (V · 2^P)`. -/
def execSetb (p : Nat) (v : Bool) (s : State) : Host.Outcome State Fault Refusal :=
  finish (.setb p v) s
    (.ok (s.writeCw ((s.cw &&& ~~~BitVec.twoPow 128 p) ||| ((BitVec.ofBool v).setWidth 128 <<< p))))

/-- GRAYE (R117): gray-encode the low w bits of CW. -/
def execGraye (wc : Nat) (s : State) : Host.Outcome State Fault Refusal :=
  finish (.graye wc) s
    ((grayWidth wc).map fun w => s.writeCw ((grayEncode (s.cw.setWidth w.bits)).setWidth 128))

/-- GRAYD (R118): gray-decode the low w bits of CW. -/
def execGrayd (wc : Nat) (s : State) : Host.Outcome State Fault Refusal :=
  finish (.grayd wc) s
    ((grayWidth wc).map fun w => s.writeCw ((grayDecode (s.cw.setWidth w.bits)).setWidth 128))

/-- ORDP (R119): order-preserving promotion of the low W bits of CW. -/
def execOrdp (wc repr : Nat) (s : State) : Host.Outcome State Fault Refusal :=
  finish (.ordp wc repr) s
    ((ordOperands wc repr).map fun o => s.writeCw ((ordPromote o.2 (s.cw.setWidth o.1.bits)).setWidth 128))

/-- ORDD (R120): the inverse of ORDP on the low W bits of CW. -/
def execOrdd (wc repr : Nat) (s : State) : Host.Outcome State Fault Refusal :=
  finish (.ordd wc repr) s
    ((ordOperands wc repr).map fun o => s.writeCw ((ordDemote o.2 (s.cw.setWidth o.1.bits)).setWidth 128))

end Sys2Proof.Machine
end

