-- ==== Sys2Proof/Machine/Morton.lean ====
section
/-! DEFINITION. The bit-interleave engine's commands (42_morton.md section 2): ILV and DIL. They check their own
(W, N) and read neither DESC, NULLM nor BOUND. -/

namespace Sys2Proof.Machine

/-- ILV (R143): `CW <- zext_128(interleave(LANE[0..N−1]))`. -/
def execIlv (wc n : Nat) (s : State) : Host.Outcome State Fault Refusal :=
  finish (.ilv wc n) s ((laneShape wc n).map fun sh => s.writeCw ((interleave (s.readLanes sh)).setWidth 128))

/-- DIL (R144): `LANE[0..N−1] <- deinterleave(CW[N·W−1:0])`. -/
def execDil (wc n : Nat) (s : State) : Host.Outcome State Fault Refusal :=
  finish (.dil wc n) s ((laneShape wc n).map fun sh => s.writeLanes sh (deinterleave (s.readCode sh)))

end Sys2Proof.Machine
end

