-- ==== Sys2Proof/Machine/Rotation.lean ====
section
/-! DEFINITION. The axis-rotation network's commands (43_hilbert.md section 3): ROTF and ROTI. They check their own
(W, N) and read neither DESC, NULLM nor BOUND. -/

namespace Sys2Proof.Machine

/-- ROTF (R166): `LANE[0..N−1] <- ROT(LANE[0..N−1])`. -/
def execRotf (wc n : Nat) (s : State) : Host.Outcome State Fault Refusal :=
  finish (.rotf wc n) s ((laneShape wc n).map fun sh => s.writeLanes sh (rot (s.readLanes sh)))

/-- ROTI (R167): `LANE[0..N−1] <- ROT⁻¹(LANE[0..N−1])`. -/
def execRoti (wc n : Nat) (s : State) : Host.Outcome State Fault Refusal :=
  finish (.roti wc n) s ((laneShape wc n).map fun sh => s.writeLanes sh (rotInv (s.readLanes sh)))

end Sys2Proof.Machine
end

