-- ==== Sys2Proof/Machine/Dispatch.lean ====
section
/-! DEFINITION. One arm per command, each one direct call of its meaning. -/

namespace Sys2Proof.Machine

/-- Execute one command. -/
def exec (i : Instr) (s : State) : Host.Outcome State Fault Refusal :=
  match i with
  | .nop => Sys2Proof.Machine.execNop s
  | .binde kind wc n repr => Sys2Proof.Machine.execBinde kind wc n repr s
  | .bindd kind wc n rf ru => Sys2Proof.Machine.execBindd kind wc n rf ru s
  | .exec => Sys2Proof.Machine.execExec s
  | .getb p => Sys2Proof.Machine.execGetb p s
  | .setb p v => Sys2Proof.Machine.execSetb p v s
  | .graye wc => Sys2Proof.Machine.execGraye wc s
  | .grayd wc => Sys2Proof.Machine.execGrayd wc s
  | .ordp wc repr => Sys2Proof.Machine.execOrdp wc repr s
  | .ordd wc repr => Sys2Proof.Machine.execOrdd wc repr s
  | .ilv wc n => Sys2Proof.Machine.execIlv wc n s
  | .dil wc n => Sys2Proof.Machine.execDil wc n s
  | .rotf wc n => Sys2Proof.Machine.execRotf wc n s
  | .roti wc n => Sys2Proof.Machine.execRoti wc n s

end Sys2Proof.Machine
end

