-- ==== Sys2Proof/Machine/Window.lean ====
section
/-! DEFINITION. The register window (20_memory.md): its map (R62), what a read of a register returns and a write
changes (R63 to R65), byte order, widths and alignment (R66 to R68). The block has no memory of its own (R60): the
window is its one address space, and every byte of it is computed from the registers. -/

namespace Sys2Proof.Machine

/-- The named registers of the window (R62). -/
inductive WinReg where
  | id | cmd | status | desc | nullm | ecmd | cwLo | cwHi | lane (j : Fin 16)
  deriving DecidableEq, Repr

/-- The register that holds a byte of the window; none for the reserved offsets 0x0C0 to 0xFFF (R62). -/
def WinReg.ofOffset? (off : BitVec 12) : Option WinReg :=
  match off.toNat / 8 with
  | 0 => some .id
  | 1 => some .cmd
  | 2 => some .status
  | 3 => some .desc
  | 4 => some .nullm
  | 5 => some .ecmd
  | 6 => some .cwLo
  | 7 => some .cwHi
  | k + 8 => if h : k < 16 then some (.lane ⟨k, h⟩) else none

/-- The offset of a register (R62). -/
def WinReg.offset : WinReg → BitVec 12
  | .id => 0x000
  | .cmd => 0x008
  | .status => 0x010
  | .desc => 0x018
  | .nullm => 0x020
  | .ecmd => 0x028
  | .cwLo => 0x030
  | .cwHi => 0x038
  | .lane j => BitVec.ofNat 12 (0x040 + 8 * j.val)

/-- The identity register's constant (R27): "LIND", interface revision 1, at most 16 lanes. -/
def idValue : Reg64 := 0x00100001444E494C

/-- The 64 bits of a register as the host reads them (R62, R63); CMD reads 0 (R65). -/
def State.readReg (s : State) : WinReg → Reg64
  | .id => idValue
  | .cmd => 0
  | .status => s.status.word
  | .desc => s.desc.word
  | .nullm => s.nullm.word
  | .ecmd => s.ecmd.setWidth 64
  | .cwLo => s.cw.setWidth 64
  | .cwHi => s.cw.extractLsb' 64 64
  | .lane j => s.lanes[j.val]

/-- The 64 bits at an offset's register; a reserved offset reads 0 (R64). -/
def State.readAt (s : State) (off : BitVec 12) : Reg64 :=
  match WinReg.ofOffset? off with
  | some r => s.readReg r
  | none => 0

/-- `old` with the bits of `mask` replaced by those of `data` (R67). -/
def merge (old mask data : Reg64) : Reg64 := (old &&& ~~~mask) ||| (data &&& mask)

/-- A host write of the bits of `mask` to a register other than CMD (R63, R64, R67). ID, DESC and ECMD ignore it;
STATUS changes only ERRS, and only by a 1 the host itself writes to bit 16 (R35, log entry 5). CMD's own rule is
the command's issue, `Sys2Proof.Machine.serve`; as a register it holds nothing. -/
def State.writeReg (s : State) (r : WinReg) (mask data : Reg64) : State :=
  match r with
  | .id => s
  | .cmd => s
  | .status => s.mapStatus fun f => f.clearErrs ((data &&& mask).getLsbD 16)
  | .desc => s
  | .nullm => { s with nullm := NullMask.ofWord (merge s.nullm.word mask data) }
  | .ecmd => s
  | .cwLo => { s with cw := s.cw.extractLsb' 64 64 ++ merge (s.cw.setWidth 64) mask data }
  | .cwHi => { s with cw := merge (s.cw.extractLsb' 64 64) mask data ++ s.cw.setWidth 64 }
  | .lane j => s.writeLane j (merge s.lanes[j.val] mask data)

/-- The permitted accesses: 32-bit at a multiple of 4, 64-bit at a multiple of 8 (R68). -/
def permitted (off : BitVec 12) (size : Nat) : Bool :=
  decide ((size = 4 ∧ off.toNat % 4 = 0) ∨ (size = 8 ∧ off.toNat % 8 = 0))

/-- How far an access stands from its register's bit 0: byte k holds bits [8k+7 : 8k], little-endian (R66). -/
def bitShift (off : BitVec 12) : Nat := 8 * (off.toNat % 8)

/-- `size` bytes of ones. -/
def sizeMask (size : Nat) : Reg64 := BitVec.ofNat 64 (2 ^ (8 * size) - 1)

/-- The bits of its register that an access covers (R66). -/
def accessMask (off : BitVec 12) (size : Nat) : Reg64 := sizeMask size <<< bitShift off

/-- What a permitted read returns (R63, R64, R66). -/
def State.windowRead (s : State) (off : BitVec 12) (size : Nat) : Reg64 :=
  (s.readAt off >>> bitShift off) &&& sizeMask size

/-- One byte of the window, as an access of either width sees it (R66). -/
def State.windowByte (s : State) (off : BitVec 12) : Byte := (s.readAt off >>> bitShift off).setWidth 8

/-- A permitted write that issues no command; a reserved offset ignores it (R64). -/
def State.windowWrite (s : State) (off : BitVec 12) (size : Nat) (data : Reg64) : State :=
  match WinReg.ofOffset? off with
  | some r => s.writeReg r (accessMask off size) (data <<< bitShift off)
  | none => s

/-- A permitted write issues a command when it covers bytes 0x008 to 0x00B (R65). -/
def issuesCommand (off : BitVec 12) : Bool := decide (off = 0x008#12)

/-- The state once the bus has answered an access; no register changes. -/
def State.answer (s : State) (r : BusReply) : State := { s with reply := some r }

/-- A write done, or a command executed (R72). -/
def BusReply.done : BusReply := { error := false, data := 0 }

/-- A read done. -/
def BusReply.value (v : Reg64) : BusReply := { error := false, data := v }

/-- A refused access: a bus error, and a refused read returns 0 data (R68). -/
def BusReply.refusal : BusReply := { error := true, data := 0 }

end Sys2Proof.Machine
end

