-- ==== Sys2Proof/Machine/Bus.lean ====
section
/-! DEFINITION. The block serving what the host sends: reset, reads, writes, and the write of a command word to CMD,
which executes that command before the access ends (20_memory.md R65, R68 to R72; 70_reset_and_hazards.md R270). -/

namespace Sys2Proof.Machine

/-- Execute the command word `w`: the command it decodes to, or IllegalCommand (R91, R92, R94, R234). -/
def issue (w : CmdWord) (s : State) : Host.Outcome State Fault Refusal :=
  match decodeWord w with
  | .ok i => exec i s
  | .error e => .next (s.raiseIllegal w e)

/-- Serve one thing the host sends. An access is one atomic step, a command's execution included (R70, R280); a
refused access changes no register and issues nothing (R68); reset gives the state of R42 whatever was before, and
leaves alone what the host has sent after it (R270, R271). -/
def serve (e : BusEvent) (s : State) : Host.Outcome State Fault Refusal :=
  match e with
  | .reset => .next { State.reset with pending := s.pending }
  | .read off size =>
    if permitted off size then .next (s.answer (.value (s.windowRead off size)))
    else .next (s.answer .refusal)
  | .write off size data =>
    if permitted off size = false then .next (s.answer .refusal)
    else if issuesCommand off then issue (data.setWidth 32) (s.answer .done)
    else .next ((s.windowWrite off size data).answer .done)

end Sys2Proof.Machine
end

