-- ==== Sys2Proof/Machine/Step.lean ====
section
/-! DEFINITION. One step of the block, and the placing of one command word where the next step takes it. -/

namespace Sys2Proof.Machine

/-- One step: serve what the host sent first (R71). With nothing sent the block waits, unchanged: it never acts on
its own (R11, R272, R283). -/
def step (s : State) : Host.Outcome State Fault Refusal :=
  match s.pending with
  | [] => .next s
  | e :: rest => serve e { s with pending := rest }

/-- The block fetches nothing (R38): a command arrives as the data of a host write to CMD (R65). So the word is placed
as a 32-bit write to CMD that the block serves next, before anything already sent (log entry 3). -/
def State.withFetchWord (s : State) (nbits w : Nat) : State :=
  { s with pending := .write 0x008#12 4 (BitVec.ofNat 64 (w % 2 ^ nbits)) :: s.pending }

end Sys2Proof.Machine
end

