-- ==== Sys2Proof/Machine/Assembler.lean ====
section
/-! DEFINITION. The assembler's lines as data (30_encoding.md R95), the host statements (R96), the pseudo-instructions
and the element types (R97). The text layer (case, commas, number bases) is notation and no part of the machine. A line
stands for a command word, a statement for the accesses it sends; neither adds behaviour to the block. -/

namespace Sys2Proof.Machine

/-- `<kind>`, or `#k`, the raw field value (R95). -/
inductive KindOperand where
  | hilbert | morton | raw (k : Nat)
  deriving DecidableEq, Repr

/-- `W<w>` or `C<c>`, or `#k` (R95). -/
inductive WidthOperand where
  | b8 | b16 | b32 | b64 | b128 | raw (k : Nat)
  deriving DecidableEq, Repr

/-- `<repr>`, or `#k` (R95). -/
inductive ReprOperand where
  | uint | sint | float | raw (k : Nat)
  deriving DecidableEq, Repr

/-- The KIND field of an operand (R82). -/
def KindOperand.value : KindOperand → Nat
  | .hilbert => 0
  | .morton => 1
  | .raw k => k

/-- The WC field of an operand (R83). -/
def WidthOperand.value : WidthOperand → Nat
  | .b8 => 0
  | .b16 => 1
  | .b32 => 2
  | .b64 => 3
  | .b128 => 4
  | .raw k => k

/-- The REPR field of an operand (R85). -/
def ReprOperand.value : ReprOperand → Nat
  | .uint => 0
  | .sint => 1
  | .float => 2
  | .raw k => k

/-- One assembler line (R95). `N<n>`, `<p>` and their `#k` forms all put a number in their field. -/
inductive AsmLine where
  | nop
  | binde (kind : KindOperand) (w : WidthOperand) (n : Nat) (repr : ReprOperand)
  | bindd (kind : KindOperand) (c : WidthOperand) (n : Nat) (rf ru : Bool)
  | exec
  | getb (p : Nat)
  | setb (p : Nat) (v : Bool)
  | graye (w : WidthOperand)
  | grayd (w : WidthOperand)
  | ordp (w : WidthOperand) (repr : ReprOperand)
  | ordd (w : WidthOperand) (repr : ReprOperand)
  | ilv (w : WidthOperand) (n : Nat)
  | dil (w : WidthOperand) (n : Nat)
  | rotf (w : WidthOperand) (n : Nat)
  | roti (w : WidthOperand) (n : Nat)
  | word (value : CmdWord)
  deriving DecidableEq, Repr

/-- The command word of a line (R95). -/
def AsmLine.assemble : AsmLine → CmdWord
  | .nop => encode .nop
  | .binde k w n r => encode (.binde k.value w.value n r.value)
  | .bindd k c n rf ru => encode (.bindd k.value c.value n rf ru)
  | .exec => encode .exec
  | .getb p => encode (.getb p)
  | .setb p v => encode (.setb p v)
  | .graye w => encode (.graye w.value)
  | .grayd w => encode (.grayd w.value)
  | .ordp w r => encode (.ordp w.value r.value)
  | .ordd w r => encode (.ordd w.value r.value)
  | .ilv w n => encode (.ilv w.value n)
  | .dil w n => encode (.dil w.value n)
  | .rotf w n => encode (.rotf w.value n)
  | .roti w n => encode (.roti w.value n)
  | .word value => value

/-- The element types T of R97. -/
inductive ElemType where
  | i8 | i16 | i32 | i64 | u8 | u16 | u32 | u64 | f32 | f64
  deriving DecidableEq, Repr

/-- The lane width and the representation of an element type (R97). Its W-bit pattern is the lane itself, with no
change of bits (R112), so there is no further map. -/
def ElemType.lane : ElemType → LaneWidth × ElemRepr
  | .i8 => (.w8, .sint)
  | .i16 => (.w16, .sint)
  | .i32 => (.w32, .sint)
  | .i64 => (.w64, .sint)
  | .u8 => (.w8, .uint)
  | .u16 => (.w16, .uint)
  | .u32 => (.w32, .uint)
  | .u64 => (.w64, .uint)
  | .f32 => (.w32, .float)
  | .f64 => (.w64, .float)

/-- The host statements (R96) and the pseudo-instructions (R97). -/
inductive HostStmt where
  | wr (r : WinReg) (v : Reg64)
  | rd (r : WinReg)
  | cmd (line : AsmLine)
  | hilbertEncode (w : WidthOperand) (n : Nat) (repr : ReprOperand)
  | mortonEncode (w : WidthOperand) (n : Nat) (repr : ReprOperand)
  | hilbertDecode (c : WidthOperand) (n : Nat) (rf ru : Bool)
  | mortonDecode (c : WidthOperand) (n : Nat) (rf ru : Bool)
  | clrerr
  deriving DecidableEq, Repr

/-- `wr <reg>, <value>`: a 64-bit write at the register's offset (R96). -/
def wrEvent (r : WinReg) (v : Reg64) : BusEvent := .write r.offset 8 v

/-- A line that holds only a command: `wr CMD, <its encoding>` (R96). -/
def cmdEvent (l : AsmLine) : BusEvent := wrEvent .cmd (l.assemble.setWidth 64)

/-- The accesses a statement sends, in order (R96, R97). -/
def HostStmt.events : HostStmt → List BusEvent
  | .wr r v => [wrEvent r v]
  | .rd r => [.read r.offset 8]
  | .cmd l => [cmdEvent l]
  | .hilbertEncode w n r => [cmdEvent (.binde .hilbert w n r), cmdEvent .exec]
  | .mortonEncode w n r => [cmdEvent (.binde .morton w n r), cmdEvent .exec]
  | .hilbertDecode c n rf ru => [cmdEvent (.bindd .hilbert c n rf ru), cmdEvent .exec]
  | .mortonDecode c n rf ru => [cmdEvent (.bindd .morton c n rf ru), cmdEvent .exec]
  | .clrerr => [wrEvent .status 0x10000]

/-- The block with the accesses of some statements sent to it, after all that was sent before (R71). -/
def State.send (s : State) (p : List HostStmt) : State :=
  { s with pending := s.pending ++ p.flatMap HostStmt.events }

end Sys2Proof.Machine
end

