-- ==== Sys2Proof/Machine/Platform.lean ====
section
/-! DEFINITION. The platform's copies of the block (60_exceptions.md R247, 20_memory.md R61): each has its own window
at its own BASE and its own complete state, and they share nothing. BASE (P1) is data of each copy and INSTANCES (P3)
the length of the list (00_scope.md R10). INSTANCES ≥ 1 and one BASE per copy hold of every platform by its type. Physical
addresses have 64 bits (log entry 17). -/

namespace Sys2Proof.Machine

/-- One copy of the block. BASE is aligned to 4 KiB, so it is a page number, the bits of BASE above bit 11 (R61). -/
structure BlockCopy where
  basePage : BitVec 52
  block : State
  deriving DecidableEq, Repr

/-- The platform: its copies of the block, at least one, each at its own BASE (R10, R247). -/
structure Platform where
  copies : List BlockCopy
  /-- INSTANCES ≥ 1 (R10, P3). -/
  instances_pos : 1 ≤ copies.length
  /-- Each copy has its window at its own BASE (R247). -/
  bases_nodup : (copies.map BlockCopy.basePage).Nodup
  deriving DecidableEq, Repr

/-- INSTANCES, the number of copies (R10, P3). -/
def Platform.instances (p : Platform) : Nat := p.copies.length

/-- The platform with other copies at the same BASEs in the same order. -/
def Platform.withCopies (p : Platform) (cs : List BlockCopy)
    (h : cs.map BlockCopy.basePage = p.copies.map BlockCopy.basePage) : Platform where
  copies := cs
  instances_pos := by
    have hl := congrArg List.length h
    rw [List.length_map, List.length_map] at hl
    exact hl ▸ p.instances_pos
  bases_nodup := h ▸ p.bases_nodup

/-- An access of a host agent, by host physical address (R77). -/
inductive PhysAccess where
  | read (addr : Reg64) (size : Nat)
  | write (addr : Reg64) (size : Nat) (data : Reg64)
  deriving DecidableEq, Repr

/-- The host physical address of an access. -/
def PhysAccess.addr : PhysAccess → Reg64
  | .read a _ => a
  | .write a _ _ => a

/-- The access as a block receives it: offsets are relative to BASE (R61). -/
def PhysAccess.event : PhysAccess → BusEvent
  | .read a size => .read (a.setWidth 12) size
  | .write a size data => .write (a.setWidth 12) size data

/-- BASE of a copy (R61). -/
def BlockCopy.base (c : BlockCopy) : Reg64 := c.basePage ++ 0#12

/-- The access lies in the copy's window of 0x1000 bytes at BASE (R61). -/
def BlockCopy.covers (c : BlockCopy) (a : PhysAccess) : Bool := decide (a.addr.extractLsb' 12 52 = c.basePage)

/-- A copy receives an access in its window, after all it received before (R71), and no other access. -/
def BlockCopy.receive (a : PhysAccess) (c : BlockCopy) : BlockCopy :=
  if c.covers a then { c with block := { c.block with pending := c.block.pending ++ [a.event] } } else c

/-- Receiving leaves a copy at its BASE. -/
theorem BlockCopy.receive_basePage (a : PhysAccess) (c : BlockCopy) : (c.receive a).basePage = c.basePage := by
  unfold BlockCopy.receive
  split <;> rfl

/-- An access reaches the copy whose window it lies in. Every copy looks at it, and their BASEs differ. -/
def Platform.deliver (p : Platform) (a : PhysAccess) : Platform :=
  p.withCopies (p.copies.map (BlockCopy.receive a)) <| by
    rw [List.map_map]
    exact List.map_congr_left fun c _ => c.receive_basePage a

/-- Putting a block into copy `k` leaves every copy at its BASE. -/
theorem Platform.set_basePages (p : Platform) (k : Fin p.copies.length) (b : State) :
    (p.copies.set k { p.copies[k] with block := b }).map BlockCopy.basePage = p.copies.map BlockCopy.basePage := by
  apply List.ext_getElem
  · simp
  · intro j h1 h2
    by_cases hj : k.val = j
    · subst hj; simp
    · simp [hj]

/-- Copy `k` takes one step; the copies share nothing, so no other copy changes (R247). Which copy steps next is the
platform's business and an argument here (log entry 11). -/
def Platform.stepCopy (p : Platform) (k : Fin p.copies.length) : Host.Outcome Platform Fault Refusal :=
  match step p.copies[k].block with
  | .next b => .next (p.withCopies (p.copies.set k { p.copies[k] with block := b }) (p.set_basePages k b))
  | .fault f => .fault f
  | .refused r => .refused r

end Sys2Proof.Machine
end

