-- ==== Sys2Proof/Safety.lean ====
section
/-! DEFINITION. What claims about the block are stated in: the invariant of its registers (10_state.md R29, 60_exceptions.md
R231), and the frames of its commands, that is which parts of the state are unchanged. The block has no memory of its
own (R60), so a frame over its registers is a frame over everything the host can read. -/

namespace Sys2Proof.Safety

open Sys2Proof.Machine

/-- What R29 says of DESC while STATUS.BOUND = 1. KIND ∈ {0,1}, WC ∈ 0..3 and REPR ∈ {0,1,2} hold by the types of the
fields. -/
def DescBound (d : Desc) : Prop :=
  1 ≤ d.n.toNat ∧ d.n.toNat ≤ 16 ∧ d.n.toNat * d.wc.bits ≤ 128 ∧
  table d.wc d.n.toNat = some d.cc ∧
  (d.repr = .float → d.wc = .w32 ∨ d.wc = .w64) ∧
  (d.dir = .encode → d.rf = false ∧ d.ru = false) ∧
  (d.dir = .decode → d.rf = true → d.repr = .float) ∧
  (d.dir = .decode → d.rf = false → d.repr = if d.ru then .uint else .sint)

/-- The pairs (ERR, CAUSE) that are ever produced: (0, 0), and the rows of R231. -/
def legalErrorPairs : List (Nat × Nat) :=
  [ (0, 0), (1, 1), (1, 2), (1, 3), (1, 4), (1, 5), (1, 6), (1, 7), (1, 8), (2, 1), (3, 1), (3, 2), (4, 1), (4, 2) ]

/-- The invariant of a block: R29 on DESC, bound or not, and no (ERR, CAUSE) pair outside R231. -/
def BlockInv (s : State) : Prop :=
  (s.status.bound = true → DescBound s.desc) ∧
  (s.status.bound = false → s.desc = Desc.zero) ∧
  (s.status.err.toNat, s.status.cause.toNat) ∈ legalErrorPairs

/-- No data register differs: CW and every lane. -/
def SameData (s t : State) : Prop := t.cw = s.cw ∧ t.lanes = s.lanes

/-- No register that only a bind or the host writes differs: DESC, BOUND, NULLM. -/
def SameBinding (s t : State) : Prop :=
  t.desc = s.desc ∧ t.status.bound = s.status.bound ∧ t.nullm = s.nullm

/-- No flag that one command alone writes differs: ONULL and BITV. -/
def SameFlags (s t : State) : Prop := t.status.onull = s.status.onull ∧ t.status.bitv = s.status.bitv

/-- What the host has sent and been answered does not differ. -/
def SameBus (s t : State) : Prop := t.pending = s.pending ∧ t.reply = s.reply

/-- What a command that raises nothing does to the error registers (R236): ERR and CAUSE become 0, and ERRS and ECMD
are unchanged. -/
def Completed (s t : State) : Prop :=
  t.status.err = 0 ∧ t.status.cause = 0 ∧ t.status.errs = s.status.errs ∧ t.ecmd = s.ecmd

/-- What a raise of (class, cause) by the word `w` does to the error registers (R232). -/
def Raised (err cause : Nat) (w : CmdWord) (t : State) : Prop :=
  t.status.err.toNat = err ∧ t.status.cause.toNat = cause ∧ t.status.errs = true ∧ t.ecmd = w

/-- The registers outside `n` lanes: every LANE[j] with j ≥ N is unchanged (R23). -/
def SameLanesFrom (n : Nat) (s t : State) : Prop := ∀ j : Fin 16, n ≤ j.val → t.lanes[j.val] = s.lanes[j.val]

/-- A lane width code and its width (R83). -/
def LaneWidthCode (wc W : Nat) : Prop :=
  (wc = 0 ∧ W = 8) ∨ (wc = 1 ∧ W = 16) ∨ (wc = 2 ∧ W = 32) ∨ (wc = 3 ∧ W = 64)

/-- A width code of GRAYE, GRAYD or BINDD and its width (R83). -/
def WidthCode (wc w : Nat) : Prop := LaneWidthCode wc w ∨ (wc = 4 ∧ w = 128)

/-- The admissible operands of a lane command: W(WC) = W, 1 ≤ N ≤ 16 and N·W ≤ 128 (R8). -/
def LaneOperands (wc n W : Nat) : Prop := LaneWidthCode wc W ∧ 1 ≤ n ∧ n ≤ 16 ∧ n * W ≤ 128

/-- The rows of the width table, in numbers: W, the least N, the greatest N, Table(W, N) (R190). -/
def tableRows : List (Nat × Nat × Nat × Nat) :=
  [ (8, 1, 1, 8), (8, 2, 2, 16), (8, 3, 4, 32), (8, 5, 8, 64), (8, 9, 16, 128),
    (16, 1, 1, 16), (16, 2, 2, 32), (16, 3, 4, 64), (16, 5, 8, 128),
    (32, 1, 1, 32), (32, 2, 2, 64), (32, 3, 4, 128), (64, 1, 1, 64), (64, 2, 2, 128) ]

/-- Table(W, N) is defined and is C (R190). -/
def TableIs (W n C : Nat) : Prop := ∃ lo hi, (W, lo, hi, C) ∈ tableRows ∧ lo ≤ n ∧ n ≤ hi

/-- DESC as the host reads it holds these field values (R26). -/
def DescReads (d : Desc) (kind dir wc n repr cc rf ru : Nat) : Prop :=
  d.word.toNat = kind + 2 ^ 2 * dir + 2 ^ 3 * wc + 2 ^ 6 * n + 2 ^ 11 * repr + 2 ^ 13 * cc + 2 ^ 16 * rf + 2 ^ 17 * ru

/-- STATUS as the host reads it holds these field values (R30). -/
def StatusReads (f : Status) (err cause bound onull bitv errs : Nat) : Prop :=
  f.word.toNat = err + 2 ^ 4 * cause + 2 ^ 8 * bound + 2 ^ 9 * onull + 2 ^ 10 * bitv + 2 ^ 16 * errs

/-- The command ends in an error (err, cause) that changes nothing but what R232 records: ERR, CAUSE, ERRS, ECMD. -/
def Rejected (i : Instr) (err cause : Nat) (s : State) : Prop :=
  ∃ t, exec i s = .next t ∧ Raised err cause (encode i) t ∧
    SameData s t ∧ SameBinding s t ∧ SameFlags s t ∧ SameBus s t

/-- The bind ends in an error (err, cause), which releases the descriptor and changes nothing else (R232, R233). -/
def BindRejected (i : Instr) (err cause : Nat) (s : State) : Prop :=
  ∃ t, exec i s = .next t ∧ Raised err cause (encode i) t ∧ t.desc.word = 0 ∧ t.status.bound = false ∧
    SameData s t ∧ t.nullm = s.nullm ∧ SameFlags s t ∧ SameBus s t

/-- EXEC ends in an error (err, cause), which clears ONULL and changes nothing else (R232, R233). -/
def ExecRejected (err cause : Nat) (s : State) : Prop :=
  ∃ t, exec .exec s = .next t ∧ Raised err cause (encode .exec) t ∧ t.status.onull = false ∧
    SameData s t ∧ SameBinding s t ∧ t.status.bitv = s.status.bitv ∧ SameBus s t

/-- The checks ILV, DIL, ROTF and ROTI share, in their order: WC, N, N·W (R143, R234). -/
def LaneChecks (c : Nat → Nat → Instr) : Prop :=
  ∀ (wc n : Nat) (s : State),
    (wc > 3 → Rejected (c wc n) 1 2 s) ∧
    (wc ≤ 3 → n < 1 ∨ n > 16 → Rejected (c wc n) 1 3 s) ∧
    (∀ W, LaneWidthCode wc W → 1 ≤ n → n ≤ 16 → n * W > 128 → Rejected (c wc n) 1 4 s)

/-- The checks ORDP and ORDD share, in their order: WC, REPR, float width (R119, R234). -/
def OrdChecks (c : Nat → Nat → Instr) : Prop :=
  ∀ (wc repr : Nat) (s : State),
    (wc > 3 → Rejected (c wc repr) 1 2 s) ∧
    (wc ≤ 3 → repr ≥ 3 → Rejected (c wc repr) 1 5 s) ∧
    (wc ≤ 1 → repr = 2 → Rejected (c wc repr) 1 6 s)

/-- What the command leaves besides its CW result: every lane, every register a bind or the host writes, ONULL and
BITV, and the error registers as a success leaves them (R236). -/
def OnlyCw (s t : State) : Prop :=
  t.lanes = s.lanes ∧ SameBinding s t ∧ SameFlags s t ∧ Completed s t ∧ SameBus s t

/-- What the command leaves besides lanes 0 to N−1. -/
def OnlyLanes (n : Nat) (s t : State) : Prop :=
  t.cw = s.cw ∧ SameLanesFrom n s t ∧ SameBinding s t ∧ SameFlags s t ∧ Completed s t ∧ SameBus s t

/-- The registers of the block, all of them (R20). -/
def SameRegisters (s t : State) : Prop :=
  t.cw = s.cw ∧ t.lanes = s.lanes ∧ t.desc = s.desc ∧ t.status = s.status ∧ t.nullm = s.nullm ∧ t.ecmd = s.ecmd

/-- The errors each command can raise: the column "raised by" of R231. -/
def errorsOf : Opcode → List (Nat × Nat)
  | .nop => []
  | .binde => [(1, 1), (1, 2), (1, 3), (1, 4), (1, 5), (1, 6)]
  | .bindd => [(1, 1), (1, 3), (1, 7), (1, 8), (3, 1)]
  | .exec => [(2, 1), (3, 2)]
  | .getb => []
  | .setb => []
  | .graye => [(1, 2)]
  | .grayd => [(1, 2)]
  | .ordp => [(1, 2), (1, 5), (1, 6)]
  | .ordd => [(1, 2), (1, 5), (1, 6)]
  | .ilv => [(1, 2), (1, 3), (1, 4)]
  | .dil => [(1, 2), (1, 3), (1, 4)]
  | .rotf => [(1, 2), (1, 3), (1, 4)]
  | .roti => [(1, 2), (1, 3), (1, 4)]

/-- The mask and the match of spec/opcode_table.json, row by row. -/
def maskAndMatch : Opcode → CmdWord × CmdWord
  | .nop => (0xFFFFFFFF#32, 0x00000000#32)
  | .binde => (0xFFFE001F#32, 0x00000001#32)
  | .bindd => (0xFFF9801F#32, 0x00000002#32)
  | .exec => (0xFFFFFFFF#32, 0x00000003#32)
  | .getb => (0xFC07FFFF#32, 0x00000008#32)
  | .setb => (0xF807FFFF#32, 0x00000009#32)
  | .graye => (0xFFFFFC7F#32, 0x0000000A#32)
  | .grayd => (0xFFFFFC7F#32, 0x0000000B#32)
  | .ordp => (0xFFFE7C7F#32, 0x0000000C#32)
  | .ordd => (0xFFFE7C7F#32, 0x0000000D#32)
  | .ilv => (0xFFFF807F#32, 0x00000010#32)
  | .dil => (0xFFFF807F#32, 0x00000011#32)
  | .rotf => (0xFFFF807F#32, 0x00000012#32)
  | .roti => (0xFFFF807F#32, 0x00000013#32)

/-- The state in which the block serves a word written to CMD: nothing else sent before it. -/
def served (s : State) (rest : List BusEvent) : State :=
  { s with pending := rest, reply := some { error := false, data := 0 } }

/-- An IllegalCommand of cause `c` on the word `w`: ERR, CAUSE, ERRS and ECMD change, and nothing else. -/
def IllegalEffect (c : Nat) (w : CmdWord) (s t : State) : Prop :=
  Raised 4 c w t ∧ SameData s t ∧ SameBinding s t ∧ SameFlags s t

/-- The order of a sign-magnitude pattern, −0 just below +0: what the order of non-NaN floats is on their bit patterns
(R112, R122). -/
def signMagnitude {w : Nat} (u : BitVec w) : Int :=
  if u.getLsbD (w - 1) then -(u.toNat % 2 ^ (w - 1) : Nat) - 1 else (u.toNat % 2 ^ (w - 1) : Nat)

end Sys2Proof.Safety
end

