-- ==== Sys2Proof/Certificates/Slice0/Obligations.lean ====
section
/-! DEFINITION. The statements about the block. The block has no memory of its own (R60), so a frame over its registers
is a frame over every byte the host can read. -/

open Sys2Proof Sys2Proof.Machine Sys2Proof.Safety

/-! ### Encoding -/

/-- R98: worked encodings, one or more per family. -/
def Obligations.WorkedEncodingsDecode : Prop :=
  decodeWord 0x00000000#32 = .ok .nop ∧
  decodeWord 0x00010D01#32 = .ok (.binde 0 2 3 2) ∧
  decodeWord 0x00020E02#32 = .ok (.bindd 0 4 3 true false) ∧
  decodeWord 0x00000003#32 = .ok .exec ∧
  decodeWord 0x03F80008#32 = .ok (.getb 127) ∧
  decodeWord 0x04280009#32 = .ok (.setb 5 true) ∧
  decodeWord 0x0000818D#32 = .ok (.ordd 3 1) ∧
  decodeWord 0x00000C10#32 = .ok (.ilv 0 3) ∧
  decodeWord 0x00000813#32 = .ok (.roti 0 2)

/-- R80, R90: no field of an encoding is dropped. -/
def Obligations.DecodeGivesBackTheEncoded : Prop :=
  ∀ i : Instr, i.wellFormed = true → decodeWord (encode i) = .ok i

/-- R80, R90: the word of each command, field by field, as a number. -/
def Obligations.CommandWordsAreBuiltFromTheirFields : Prop :=
  ∀ kind wc n repr p : Nat, kind < 4 → wc < 8 → n < 32 → repr < 4 → p < 128 → ∀ rf ru v : Bool,
    (encode .nop).toNat = 0x00 ∧ (encode .exec).toNat = 0x03 ∧
    (encode (.binde kind wc n repr)).toNat = 0x01 + 2 ^ 5 * kind + 2 ^ 7 * wc + 2 ^ 10 * n + 2 ^ 15 * repr ∧
    (encode (.bindd kind wc n rf ru)).toNat =
      0x02 + 2 ^ 5 * kind + 2 ^ 7 * wc + 2 ^ 10 * n + 2 ^ 17 * rf.toNat + 2 ^ 18 * ru.toNat ∧
    (encode (.getb p)).toNat = 0x08 + 2 ^ 19 * p ∧
    (encode (.setb p v)).toNat = 0x09 + 2 ^ 19 * p + 2 ^ 26 * v.toNat ∧
    (encode (.graye wc)).toNat = 0x0A + 2 ^ 7 * wc ∧ (encode (.grayd wc)).toNat = 0x0B + 2 ^ 7 * wc ∧
    (encode (.ordp wc repr)).toNat = 0x0C + 2 ^ 7 * wc + 2 ^ 15 * repr ∧
    (encode (.ordd wc repr)).toNat = 0x0D + 2 ^ 7 * wc + 2 ^ 15 * repr ∧
    (encode (.ilv wc n)).toNat = 0x10 + 2 ^ 7 * wc + 2 ^ 10 * n ∧
    (encode (.dil wc n)).toNat = 0x11 + 2 ^ 7 * wc + 2 ^ 10 * n ∧
    (encode (.rotf wc n)).toNat = 0x12 + 2 ^ 7 * wc + 2 ^ 10 * n ∧
    (encode (.roti wc n)).toNat = 0x13 + 2 ^ 7 * wc + 2 ^ 10 * n

/-- R91, R94: a word has one meaning, so the word of a decoded command is the encoder's. ECMD rests on it (log
entry 7). -/
def Obligations.EncodeGivesBackTheDecoded : Prop :=
  ∀ (w : CmdWord) (i : Instr), decodeWord w = .ok i → i.wellFormed = true ∧ encode i = w

/-- R91: `(word AND mask) = match` selects the command exactly, and any other word of a command's OP is illegal. -/
def Obligations.UnusedBitsMakeAWordIllegal : Prop :=
  (∀ (o : Opcode) (w : CmdWord),
    (∃ i, decodeWord w = .ok i ∧ i.opcode = o) ↔ w &&& (maskAndMatch o).1 = (maskAndMatch o).2) ∧
  (∀ (o : Opcode) (w : CmdWord) (s : State) (rest : List BusEvent),
    w.toNat % 32 = o.code → w &&& (maskAndMatch o).1 ≠ (maskAndMatch o).2 →
    s.pending = .write 0x008#12 4 (w.setWidth 64) :: rest →
    ∃ t, step s = .next t ∧ IllegalEffect 2 w s t ∧ t.pending = rest)

/-- R92: the reserved OP values. -/
def Obligations.ReservedOpcodesAreIllegal : Prop :=
  ∀ (w : CmdWord) (s : State) (rest : List BusEvent),
    w.toNat % 32 ∈ [0x04, 0x05, 0x06, 0x07, 0x0E, 0x0F, 0x14, 0x15, 0x16, 0x17, 0x18, 0x19, 0x1A, 0x1B, 0x1C, 0x1D,
      0x1E, 0x1F] →
    s.pending = .write 0x008#12 4 (w.setWidth 64) :: rest →
    ∃ t, step s = .next t ∧ IllegalEffect 1 w s t ∧ t.pending = rest

/-! ### Reset, the invariant, the step -/

/-- R42: the value of every piece of state after reset. -/
def Obligations.ResetLeavesEveryRegisterAsStated : Prop :=
  State.reset.cw = 0 ∧ (∀ j : Fin 16, State.reset.lanes[j.val] = 0) ∧ State.reset.desc.word = 0 ∧
  StatusReads State.reset.status 0 0 0 0 0 0 ∧ State.reset.nullm.word = 0 ∧ State.reset.ecmd = 0 ∧
  State.reset.readReg .id = 0x00100001444E494C#64

/-- R271: the reset signal gives that state whatever was before it. That what the host sent after it is still to be served
(`t.pending = rest`) is the model's choice (log entry 9), not R271's. -/
def Obligations.ResetSignalForgetsTheStateBefore : Prop :=
  ∀ (s : State) (rest : List BusEvent), s.pending = .reset :: rest →
    ∃ t, step s = .next t ∧ t.cw = 0 ∧ (∀ j : Fin 16, t.lanes[j.val] = 0) ∧ t.desc.word = 0 ∧
      StatusReads t.status 0 0 0 0 0 0 ∧ t.nullm.word = 0 ∧ t.ecmd = 0 ∧
      t.readReg .id = 0x00100001444E494C#64 ∧ t.pending = rest

/-- R42, R29, R231. -/
def Obligations.ResetMeetsInv : Prop := BlockInv State.reset

/-- R29, R231, R237: every access and every command keeps the invariant, and none stops the block. -/
def Obligations.StepKeepsInv : Prop :=
  ∀ s : State, BlockInv s → ∃ t, step s = .next t ∧ BlockInv t

/-- Log entry 6, the model's own: the only command that can stop is EXEC, and it stops exactly in a bound state whose
descriptor has N outside 1..16 or N·W above 128. No state that meets BlockInv is one. -/
def Obligations.ExecStopsOnlyOnABrokenDescriptor : Prop :=
  ∀ (i : Instr) (s : State),
    (∀ t, exec i s ≠ .next t) ↔
      i = .exec ∧ s.status.bound = true ∧
        (s.desc.n.toNat < 1 ∨ s.desc.n.toNat > 16 ∨ s.desc.n.toNat * s.desc.wc.bits > 128)

/-- R65: a permitted write that covers bytes 0x008 to 0x00B runs the command its low 32 bits decode to, in that step; a
32-bit write at 0x00C and a read of CMD issue nothing. What the step adds around the command is the model's own: the
access leaves `pending`, and `reply` is "done" with data 0 (log entries 1 and 15). The last clause is the placing of a word
by `withFetchWord` (log entry 3). -/
def Obligations.CmdWriteRunsTheDecodedCommand : Prop :=
  (∀ (s : State) (rest : List BusEvent) (size : Nat) (data : Reg64), size = 4 ∨ size = 8 →
    s.pending = .write 0x008#12 size data :: rest →
    (∀ i, decodeWord (data.setWidth 32) = .ok i → step s = exec i (served s rest)) ∧
    (decodeWord (data.setWidth 32) = .error .reservedOpcode →
      ∃ t, step s = .next t ∧ IllegalEffect 1 (data.setWidth 32) s t) ∧
    (decodeWord (data.setWidth 32) = .error .unusedBits →
      ∃ t, step s = .next t ∧ IllegalEffect 2 (data.setWidth 32) s t)) ∧
  (∀ (s : State) (rest : List BusEvent) (data : Reg64), s.pending = .write 0x00C#12 4 data :: rest →
    step s = .next (served s rest)) ∧
  (∀ (s : State) (rest : List BusEvent) (off : BitVec 12) (size : Nat),
    (off = 0x008#12 ∧ size = 4) ∨ (off = 0x008#12 ∧ size = 8) ∨ (off = 0x00C#12 ∧ size = 4) →
    s.pending = .read off size :: rest → step s = .next (served s rest)) ∧
  (∀ (s : State) (i : Instr) (w : CmdWord), decodeWord w = .ok i →
    step (s.withFetchWord 32 w.toNat) = exec i (served s s.pending))

/-- R11: the block takes no step of its own. -/
def Obligations.WaitsWhenNothingIsSent : Prop :=
  ∀ s : State, s.pending = [] → step s = .next s

/-- R71: accesses are served one at a time in the order received: the step takes the first, and its outcome is the same
whatever was sent after that one and whatever was answered before it, so the answer is to that one alone. The fields that
hold what was sent and what was answered are the model's own (log entry 1); that the reset signal has no answer and leaves
what was sent after it is log entry 9. -/
def Obligations.AccessesAreServedInOrder : Prop :=
  ∀ (s : State) (e : BusEvent) (rest : List BusEvent), s.pending = e :: rest →
    (∀ t, step s = .next t → t.pending = rest ∧ (t.reply = none ↔ e = .reset) ∧
      ∀ (rest' : List BusEvent) (r : Option BusReply),
        step { s with pending := e :: rest', reply := r } = .next { t with pending := rest' }) ∧
    (∀ f, step s = .fault f → ∀ (rest' : List BusEvent) (r : Option BusReply),
      step { s with pending := e :: rest', reply := r } = .fault f)

/-! ### The register window -/

/-- R68: exactly the aligned 32-bit and 64-bit accesses are permitted; any other is answered by a bus error with 0 data,
changes no register and issues no command. -/
def Obligations.OtherAccessesAreRefusedWithoutEffect : Prop :=
  (∀ (s : State) (rest : List BusEvent) (e : BusEvent) (off : BitVec 12) (size : Nat) (data : Reg64),
    e = .read off size ∨ e = .write off size data → s.pending = e :: rest →
    ¬((size = 4 ∧ off.toNat % 4 = 0) ∨ (size = 8 ∧ off.toNat % 8 = 0)) →
    ∃ d, step s = .next { s with pending := rest, reply := some { error := true, data := d } } ∧
      (e = .read off size → d = 0)) ∧
  (∀ (s t : State) (rest : List BusEvent) (e : BusEvent) (off : BitVec 12) (size : Nat) (data : Reg64),
    e = .read off size ∨ e = .write off size data → s.pending = e :: rest →
    (size = 4 ∧ off.toNat % 4 = 0) ∨ (size = 8 ∧ off.toNat % 8 = 0) → step s = .next t →
    ∃ r, t.reply = some r ∧ r.error = false)

/-- R69: a read of any offset changes no register, and reading again answers the same. -/
def Obligations.ReadsHaveNoSideEffect : Prop :=
  ∀ (s : State) (rest : List BusEvent) (off : BitVec 12) (size : Nat), s.pending = .read off size :: rest →
    ∃ t, step s = .next t ∧ SameRegisters s t ∧
      ∃ u, step { t with pending := .read off size :: rest } = .next u ∧ u = t

/-- R63, for 64-bit accesses: what a read of CW_LO, CW_HI, LANEj and NULLM returns, and what a write sets and leaves. -/
def Obligations.DataRegistersReadAndWrite : Prop :=
  ∀ (s : State) (rest : List BusEvent) (v : Reg64),
    (s.pending = .read 0x030#12 8 :: rest →
      step s = .next { s with pending := rest, reply := some { error := false, data := s.cw.extractLsb' 0 64 } }) ∧
    (s.pending = .read 0x038#12 8 :: rest →
      step s = .next { s with pending := rest, reply := some { error := false, data := s.cw.extractLsb' 64 64 } }) ∧
    (∀ j : Fin 16, s.pending = .read (BitVec.ofNat 12 (0x040 + 8 * j.val)) 8 :: rest →
      step s = .next { s with pending := rest, reply := some { error := false, data := s.lanes[j.val] } }) ∧
    (s.pending = .read 0x020#12 8 :: rest →
      ∃ r, step s = .next { s with pending := rest, reply := some { error := false, data := r } } ∧
        (∀ k, k < 16 → r.getLsbD k = s.nullm.ln.getLsbD k) ∧ r.getLsbD 16 = s.nullm.tn ∧
        (∀ k, 16 < k → r.getLsbD k = false)) ∧
    (s.pending = .write 0x030#12 8 v :: rest →
      ∃ t, step s = .next t ∧ t.cw.extractLsb' 0 64 = v ∧ t.cw.extractLsb' 64 64 = s.cw.extractLsb' 64 64 ∧
        SameRegisters { s with cw := t.cw } t) ∧
    (s.pending = .write 0x038#12 8 v :: rest →
      ∃ t, step s = .next t ∧ t.cw.extractLsb' 64 64 = v ∧ t.cw.extractLsb' 0 64 = s.cw.extractLsb' 0 64 ∧
        SameRegisters { s with cw := t.cw } t) ∧
    (∀ j : Fin 16, s.pending = .write (BitVec.ofNat 12 (0x040 + 8 * j.val)) 8 v :: rest →
      ∃ t, step s = .next t ∧ t.lanes[j.val] = v ∧ (∀ i : Fin 16, i ≠ j → t.lanes[i.val] = s.lanes[i.val]) ∧
        SameRegisters { s with lanes := t.lanes } t) ∧
    (s.pending = .write 0x020#12 8 v :: rest →
      ∃ t, step s = .next t ∧ (∀ k, k < 16 → t.nullm.ln.getLsbD k = v.getLsbD k) ∧ t.nullm.tn = v.getLsbD 16 ∧
        SameRegisters { s with nullm := t.nullm } t)

/-- R67: a 32-bit write to a read/write register replaces only the addressed half; for NULLM, bits above 16 are
ignored. -/
def Obligations.HalfWritesLeaveTheOtherHalf : Prop :=
  ∀ (s : State) (rest : List BusEvent) (h : Fin 2) (v : Reg64),
    (∀ q : Fin 2, s.pending = .write (BitVec.ofNat 12 (0x030 + 8 * q.val + 4 * h.val)) 4 v :: rest →
      ∃ t, step s = .next t ∧
        (∀ k, k < 128 → t.cw.getLsbD k =
          if k / 32 = 2 * q.val + h.val then v.getLsbD (k % 32) else s.cw.getLsbD k) ∧
        SameRegisters { s with cw := t.cw } t) ∧
    (∀ j : Fin 16, s.pending = .write (BitVec.ofNat 12 (0x040 + 8 * j.val + 4 * h.val)) 4 v :: rest →
      ∃ t, step s = .next t ∧
        (∀ k, k < 64 → t.lanes[j.val].getLsbD k =
          if k / 32 = h.val then v.getLsbD (k % 32) else s.lanes[j.val].getLsbD k) ∧
        (∀ i : Fin 16, i ≠ j → t.lanes[i.val] = s.lanes[i.val]) ∧ SameRegisters { s with lanes := t.lanes } t) ∧
    (s.pending = .write (BitVec.ofNat 12 (0x020 + 4 * h.val)) 4 v :: rest →
      ∃ t, step s = .next t ∧
        (h.val = 0 → (∀ k, k < 16 → t.nullm.ln.getLsbD k = v.getLsbD k) ∧ t.nullm.tn = v.getLsbD 16) ∧
        (h.val = 1 → t.nullm = s.nullm) ∧ SameRegisters { s with nullm := t.nullm } t)

/-- R64: a write to ID, DESC or ECMD is ignored, a write to STATUS changes only ERRS, and a reserved offset reads as 0
and ignores writes; none is an error. -/
def Obligations.ReadOnlyAndReservedLocationsKeepTheState : Prop :=
  ∀ (s : State) (rest : List BusEvent) (off : BitVec 12) (size : Nat) (data : Reg64),
    (size = 4 ∧ off.toNat % 4 = 0) ∨ (size = 8 ∧ off.toNat % 8 = 0) →
    (off.toNat / 8 = 0 ∨ off.toNat / 8 = 3 ∨ off.toNat / 8 = 5 ∨ 0x0C0 ≤ off.toNat →
      s.pending = .write off size data :: rest →
      ∃ d, step s = .next { s with pending := rest, reply := some { error := false, data := d } }) ∧
    (off.toNat / 8 = 2 → s.pending = .write off size data :: rest →
      ∃ t b d, step s = .next t ∧ t.reply = some { error := false, data := d } ∧
        SameRegisters { s with status := { s.status with errs := b } } t) ∧
    (0x0C0 ≤ off.toNat → s.pending = .read off size :: rest →
      step s = .next { s with pending := rest, reply := some { error := false, data := 0 } })

/-- R35: ERRS is set by every command that raises, a word that is no command included; only reset, or a host write of 1
to STATUS bit 16, clears it; a write with bit 16 = 0 leaves it; the other bits of the write are ignored. That a 32-bit
write at 0x014 never clears it is deduced from R35, R66 and R67 (log entry 5). -/
def Obligations.ErrsIsStickyUntilClearedOrReset : Prop :=
  (∀ (i : Instr) (s t : State), exec i s = .next t → t.status.err ≠ 0 → t.status.errs = true) ∧
  (∀ (w : CmdWord) (s : State) (rest : List BusEvent), (∀ i, decodeWord w ≠ .ok i) →
    s.pending = .write 0x008#12 4 (w.setWidth 64) :: rest →
    ∃ t, step s = .next t ∧ t.status.err ≠ 0 ∧ t.status.errs = true) ∧
  (∀ (s t : State), step s = .next t → s.status.errs = true → t.status.errs = false →
    s.pending.head? = some .reset ∨
    ∃ size data, (size = 4 ∨ size = 8) ∧ s.pending.head? = some (.write 0x010#12 size data) ∧
      data.getLsbD 16 = true) ∧
  (∀ (s : State) (rest : List BusEvent) (size : Nat) (data : Reg64), size = 4 ∨ size = 8 →
    s.pending = .write 0x010#12 size data :: rest →
    ∃ t, step s = .next t ∧ t.status.errs = (s.status.errs && !data.getLsbD 16) ∧
      SameRegisters { s with status := { s.status with errs := t.status.errs } } t) ∧
  (∀ (s : State) (rest : List BusEvent) (data : Reg64), s.pending = .write 0x014#12 4 data :: rest →
    ∃ t, step s = .next t ∧ SameRegisters s t)

/-- R66: the window is little-endian, 32-bit and 64-bit reads of a register see the same bytes, and a permitted read is
answered with them. That a 32-bit value stands in an answer with zeros above it is the model's choice (log entry 15). -/
def Obligations.WindowIsLittleEndian : Prop :=
  (∀ (s : State) (rest : List BusEvent) (off : BitVec 12) (size : Nat),
    (size = 4 ∧ off.toNat % 4 = 0) ∨ (size = 8 ∧ off.toNat % 8 = 0) → s.pending = .read off size :: rest →
    step s = .next { s with pending := rest, reply := some { error := false, data := s.windowRead off size } }) ∧
  (∀ (s : State) (off : BitVec 12) (k : Nat), 32 ≤ k → (s.windowRead off 4).getLsbD k = false) ∧
  ∀ (s : State) (off : BitVec 12), off.toNat % 8 = 0 →
    s.windowRead off 8 =
      (s.windowRead (off + 4#12) 4).setWidth 32 ++ (s.windowRead off 4).setWidth 32 ∧
    (∀ k, k < 8 → s.windowByte (off + BitVec.ofNat 12 k) = (s.windowRead off 8).extractLsb' (8 * k) 8) ∧
    (∀ size, size = 4 ∨ size = 8 → (s.windowRead off size).setWidth 8 = s.windowByte off)

/-- R30, R26, R36, R37: the words of STATUS, DESC and NULLM, reserved bits 0; and a 64-bit read at the offset R62 gives
STATUS, DESC, NULLM and ECMD answers that register's word, ECMD with bits 63 to 32 zero. -/
def Obligations.RegisterWordsHaveTheStatedLayout : Prop :=
  (∀ (s : State) (rest : List BusEvent),
    (s.pending = .read 0x010#12 8 :: rest →
      step s = .next { s with pending := rest, reply := some { error := false, data := s.status.word } }) ∧
    (s.pending = .read 0x018#12 8 :: rest →
      step s = .next { s with pending := rest, reply := some { error := false, data := s.desc.word } }) ∧
    (s.pending = .read 0x020#12 8 :: rest →
      step s = .next { s with pending := rest, reply := some { error := false, data := s.nullm.word } }) ∧
    (s.pending = .read 0x028#12 8 :: rest →
      ∃ r : Reg64, step s = .next { s with pending := rest, reply := some { error := false, data := r } } ∧
        (∀ k, k < 32 → r.getLsbD k = s.ecmd.getLsbD k) ∧ ∀ k, 32 ≤ k → r.getLsbD k = false)) ∧
  (∀ f : Status, StatusReads f f.err.toNat f.cause.toNat f.bound.toNat f.onull.toNat f.bitv.toNat f.errs.toNat) ∧
  (∀ d : Desc, DescReads d d.kind.code.toNat d.dir.code.toNat d.wc.code.toNat d.n.toNat d.repr.code.toNat
    d.cc.code.toNat d.rf.toNat d.ru.toNat) ∧
  (∀ m : NullMask, m.word.toNat = m.ln.toNat + 2 ^ 16 * m.tn.toNat) ∧
  (∀ v : Reg64, (NullMask.ofWord v).word.toNat = v.toNat % 2 ^ 17)

/-- R27: ID reads its constant in every state, and writes to it are ignored. -/
def Obligations.IdentityIsConstant : Prop :=
  ∀ (s : State) (rest : List BusEvent),
    (s.pending = .read 0x000#12 8 :: rest →
      step s = .next { s with pending := rest, reply := some { error := false, data := 0x00100001444E494C } }) ∧
    (∀ (off : BitVec 12) (size : Nat) (data : Reg64),
      (off = 0x000#12 ∧ size = 4) ∨ (off = 0x004#12 ∧ size = 4) ∨ (off = 0x000#12 ∧ size = 8) →
      s.pending = .write off size data :: rest → ∃ t, step s = .next t ∧ SameRegisters s t)

/-! ### The bit primitives -/

/-- R192: NOP writes ERR and CAUSE as 0 and changes nothing else, and 0 is the only NOP word. -/
def Obligations.NopOnlyClearsTheError : Prop :=
  (∀ s : State, ∃ t, exec .nop s = .next t ∧ OnlyCw s t ∧ t.cw = s.cw) ∧
  (∀ w : CmdWord, decodeWord w = .ok .nop ↔ w = 0) ∧
  (∀ w : CmdWord, w.toNat % 32 = 0 → w ≠ 0 → decodeWord w = .error .unusedBits)

/-- R115: GETB copies one bit of CW to BITV. -/
def Obligations.GetbReadsOneBit : Prop :=
  ∀ (p : Nat) (s : State), ∃ t, exec (.getb p) s = .next t ∧ t.status.bitv = s.cw.getLsbD p ∧
    SameData s t ∧ SameBinding s t ∧ t.status.onull = s.status.onull ∧ Completed s t ∧ SameBus s t

/-- R116: SETB writes one bit of CW. -/
def Obligations.SetbWritesOneBit : Prop :=
  ∀ (p : Nat) (v : Bool) (s : State), p < 128 → ∃ t, exec (.setb p v) s = .next t ∧
    (∀ k, k < 128 → t.cw.getLsbD k = if k = p then v else s.cw.getLsbD k) ∧ OnlyCw s t

/-- R117: GRAYE, bit by bit; bits at and above w become 0. -/
def Obligations.GrayeEncodesTheLowBits : Prop :=
  (∀ (wc w : Nat) (s : State), WidthCode wc w → ∃ t, exec (.graye wc) s = .next t ∧
    (∀ k, k < w → t.cw.getLsbD k = (s.cw.getLsbD k ^^ (decide (k + 1 < w) && s.cw.getLsbD (k + 1)))) ∧
    (∀ k, w ≤ k → t.cw.getLsbD k = false) ∧ OnlyCw s t) ∧
  (∀ (wc : Nat) (s : State), wc > 4 → Rejected (.graye wc) 1 2 s)

/-- R118, R111: GRAYD; bit k is the exclusive or of the operand's bits k to w−1. -/
def Obligations.GraydDecodesTheLowBits : Prop :=
  (∀ (wc w : Nat) (s : State), WidthCode wc w → ∃ t, exec (.grayd wc) s = .next t ∧
    (∀ k, k < w → t.cw.getLsbD k = ((List.range' k (w - k)).map fun m => s.cw.getLsbD m).foldl xor false) ∧
    (∀ k, w ≤ k → t.cw.getLsbD k = false) ∧ OnlyCw s t) ∧
  (∀ (wc : Nat) (s : State), wc > 4 → Rejected (.grayd wc) 1 2 s)

/-- R119: ORDP; UINT keeps the low W bits, SINT flips the top one, FLOAT flips the top bit of a non-negative pattern and
every bit of a negative one; bits at and above W become 0. -/
def Obligations.OrdpPromotesTheLowBits : Prop :=
  (∀ (wc repr W : Nat) (s : State), LaneWidthCode wc W → repr ≤ 2 → (repr = 2 → W = 32 ∨ W = 64) →
    ∃ t, exec (.ordp wc repr) s = .next t ∧
      (∀ k, k < W → t.cw.getLsbD k =
        (s.cw.getLsbD k ^^ ((decide (repr ≥ 1) && decide (k = W - 1)) ||
          (decide (repr = 2) && s.cw.getLsbD (W - 1))))) ∧
      (∀ k, W ≤ k → t.cw.getLsbD k = false) ∧ OnlyCw s t) ∧
  OrdChecks .ordp

/-- R120: ORDD; as ORDP, but FLOAT inverts every bit of a pattern whose top bit is 0. After ORDP it restores the low W
bits. -/
def Obligations.OrddDemotesTheLowBits : Prop :=
  (∀ (wc repr W : Nat) (s : State), LaneWidthCode wc W → repr ≤ 2 → (repr = 2 → W = 32 ∨ W = 64) →
    ∃ t, exec (.ordd wc repr) s = .next t ∧
      (∀ k, k < W → t.cw.getLsbD k =
        (s.cw.getLsbD k ^^ ((decide (repr ≥ 1) && decide (k = W - 1)) ||
          (decide (repr = 2) && !s.cw.getLsbD (W - 1))))) ∧
      (∀ k, W ≤ k → t.cw.getLsbD k = false) ∧ OnlyCw s t) ∧
  (∀ (wc repr W : Nat) (s : State), LaneWidthCode wc W → repr ≤ 2 → (repr = 2 → W = 32 ∨ W = 64) →
    ∃ t u, exec (.ordp wc repr) s = .next t ∧ exec (.ordd wc repr) t = .next u ∧
      ∀ k, u.cw.getLsbD k = (decide (k < W) && s.cw.getLsbD k)) ∧
  OrdChecks .ordd

/-! ### The interleave engine and the rotation network -/

/-- R143: ILV puts bit i of lane j at CW bit i·N + (N−1−j), and 0 at and above N·W. -/
def Obligations.IlvInterleavesTheLanes : Prop :=
  (∀ (wc n W : Nat) (s : State), LaneOperands wc n W → ∃ t, exec (.ilv wc n) s = .next t ∧
    (∀ (i : Nat) (j : Fin 16), i < W → j.val < n →
      t.cw.getLsbD (i * n + (n - 1 - j.val)) = s.lanes[j.val].getLsbD i) ∧
    (∀ k, n * W ≤ k → t.cw.getLsbD k = false) ∧ OnlyCw s t) ∧
  LaneChecks .ilv

/-- R144: DIL takes bit i of lane j from CW bit i·N + (N−1−j), and writes the lanes zero-extended. -/
def Obligations.DilDeinterleavesTheCode : Prop :=
  (∀ (wc n W : Nat) (s : State), LaneOperands wc n W → ∃ t, exec (.dil wc n) s = .next t ∧
    (∀ (i : Nat) (j : Fin 16), j.val < n →
      t.lanes[j.val].getLsbD i = (decide (i < W) && s.cw.getLsbD (i * n + (n - 1 - j.val)))) ∧ OnlyLanes n s t) ∧
  LaneChecks .dil

/-- R166: ROTF replaces lanes 0 to N−1 by ROT of their low W bits, zero-extended. Then ILV, and GRAYD at width N·W where
that is a width of GRAYD, leave HilbertEncode of the lanes in CW. -/
def Obligations.RotfRotatesTheLanes : Prop :=
  (∀ (wc : Nat) (sh : LaneShape) (s : State), LaneWidthCode wc sh.w.bits →
    ∃ t, exec (.rotf wc sh.n) s = .next t ∧
      (∀ (j : Fin 16) (h : j.val < sh.n), t.lanes[j.val] = ((rot (s.readLanes sh)).get ⟨j.val, h⟩).setWidth 64) ∧
      OnlyLanes sh.n s t) ∧
  (∀ (wc g : Nat) (sh : LaneShape) (s : State), LaneWidthCode wc sh.w.bits → WidthCode g (sh.n * sh.w.bits) →
    ∃ t1 t2 t3, exec (.rotf wc sh.n) s = .next t1 ∧ exec (.ilv wc sh.n) t1 = .next t2 ∧
      exec (.grayd g) t2 = .next t3 ∧ t3.cw = (hilbertEncode (s.readLanes sh)).setWidth 128) ∧
  LaneChecks .rotf

/-- R167: ROTI replaces lanes 0 to N−1 by the inverse ROT of their low W bits, zero-extended. After ROTF it restores
them. -/
def Obligations.RotiRotatesTheLanesBack : Prop :=
  (∀ (wc : Nat) (sh : LaneShape) (s : State), LaneWidthCode wc sh.w.bits →
    (∃ t, exec (.roti wc sh.n) s = .next t ∧
      (∀ (j : Fin 16) (h : j.val < sh.n), t.lanes[j.val] = ((rotInv (s.readLanes sh)).get ⟨j.val, h⟩).setWidth 64) ∧
      OnlyLanes sh.n s t) ∧
    (∃ t u, exec (.rotf wc sh.n) s = .next t ∧ exec (.roti wc sh.n) t = .next u ∧
      ∀ (j : Fin 16) (i : Nat), j.val < sh.n → i < sh.w.bits →
        u.lanes[j.val].getLsbD i = s.lanes[j.val].getLsbD i)) ∧
  LaneChecks .roti

/-! ### Binding and execution -/

/-- R193: BINDE. -/
def Obligations.BindeBindsAnEncodeDescriptor : Prop :=
  (∀ (kind wc n repr W C cc : Nat) (s : State), kind ≤ 1 → LaneOperands wc n W → repr ≤ 2 →
    (repr = 2 → W = 32 ∨ W = 64) → TableIs W n C → WidthCode cc C →
    ∃ t, exec (.binde kind wc n repr) s = .next t ∧ DescReads t.desc kind 0 wc n repr cc 0 0 ∧
      t.status.bound = true ∧ SameData s t ∧ t.nullm = s.nullm ∧ SameFlags s t ∧ Completed s t ∧ SameBus s t) ∧
  (∀ (kind wc n repr : Nat) (s : State),
    (kind > 1 → BindRejected (.binde kind wc n repr) 1 1 s) ∧
    (kind ≤ 1 → wc > 3 → BindRejected (.binde kind wc n repr) 1 2 s) ∧
    (kind ≤ 1 → wc ≤ 3 → n < 1 ∨ n > 16 → BindRejected (.binde kind wc n repr) 1 3 s) ∧
    (∀ W, kind ≤ 1 → LaneWidthCode wc W → 1 ≤ n → n ≤ 16 → n * W > 128 →
      BindRejected (.binde kind wc n repr) 1 4 s) ∧
    (∀ W, kind ≤ 1 → LaneOperands wc n W → repr ≥ 3 → BindRejected (.binde kind wc n repr) 1 5 s) ∧
    (∀ W, kind ≤ 1 → LaneOperands wc n W → repr = 2 → W = 8 ∨ W = 16 →
      BindRejected (.binde kind wc n repr) 1 6 s))

/-- R194: BINDD. `dwc` is the code of W = DecW(C, N), the W with Table(W, N) = C (R191). -/
def Obligations.BinddBindsADecodeDescriptor : Prop :=
  (∀ (kind wc n C W dwc : Nat) (rf ru : Bool) (s : State), kind ≤ 1 → WidthCode wc C → 1 ≤ n → n ≤ 16 →
    TableIs W n C → LaneWidthCode dwc W → (rf = true → W = 32 ∨ W = 64) →
    ∃ t, exec (.bindd kind wc n rf ru) s = .next t ∧
      DescReads t.desc kind 1 dwc n (if rf then 2 else if ru then 0 else 1) wc rf.toNat ru.toNat ∧
      t.status.bound = true ∧ SameData s t ∧ t.nullm = s.nullm ∧ SameFlags s t ∧ Completed s t ∧ SameBus s t) ∧
  (∀ (kind wc n : Nat) (rf ru : Bool) (s : State),
    (kind > 1 → BindRejected (.bindd kind wc n rf ru) 1 1 s) ∧
    (kind ≤ 1 → wc > 4 → BindRejected (.bindd kind wc n rf ru) 3 1 s) ∧
    (kind ≤ 1 → wc ≤ 4 → n < 1 ∨ n > 16 → BindRejected (.bindd kind wc n rf ru) 1 3 s) ∧
    (∀ C, kind ≤ 1 → WidthCode wc C → 1 ≤ n → n ≤ 16 → (∀ W, ¬TableIs W n C) →
      BindRejected (.bindd kind wc n rf ru) 1 7 s) ∧
    (∀ C W, kind ≤ 1 → WidthCode wc C → 1 ≤ n → n ≤ 16 → TableIs W n C → rf = true → W = 8 ∨ W = 16 →
      BindRejected (.bindd kind wc n rf ru) 1 8 s))

/-- R196: EXEC, its one word and its five outcomes. `sh` is the bound descriptor's (W, N). -/
def Obligations.ExecRunsTheBoundCodec : Prop :=
  (∀ w : CmdWord, decodeWord w = .ok .exec ↔ w = 0x00000003#32) ∧
  (∀ s : State, s.status.bound = false → ExecRejected 3 2 s) ∧
  (∀ (s : State) (sh : LaneShape), s.status.bound = true → s.desc.wc = sh.w → s.desc.n.toNat = sh.n →
    (s.nullm.tn = true → ∃ t, exec .exec s = .next t ∧ t.status.onull = true ∧ SameData s t ∧ SameBinding s t ∧
      t.status.bitv = s.status.bitv ∧ Completed s t ∧ SameBus s t) ∧
    (s.nullm.tn = false → s.desc.dir = .encode → (∃ j, j < sh.n ∧ s.nullm.ln.getLsbD j = true) →
      ExecRejected 2 1 s) ∧
    (s.nullm.tn = false → s.desc.dir = .encode → (∀ j, j < sh.n → s.nullm.ln.getLsbD j = false) →
      ∃ t, exec .exec s = .next t ∧
        (s.desc.kind = .hilbert → t.cw = (hilbertEncode (s.readLanes sh)).setWidth 128) ∧
        (s.desc.kind = .morton → t.cw = (mortonEncode (s.readLanes sh)).setWidth 128) ∧
        (∀ k, sh.n * sh.w.bits ≤ k → t.cw.getLsbD k = false) ∧ t.lanes = s.lanes ∧
        t.status.onull = false ∧ SameBinding s t ∧ t.status.bitv = s.status.bitv ∧ Completed s t ∧ SameBus s t) ∧
    (s.nullm.tn = false → s.desc.dir = .decode →
      ∃ t, exec .exec s = .next t ∧
        (s.desc.kind = .hilbert → ∀ (j : Fin 16) (h : j.val < sh.n),
          t.lanes[j.val] = ((hilbertDecode (s.readCode sh)).get ⟨j.val, h⟩).setWidth 64) ∧
        (s.desc.kind = .morton → ∀ (j : Fin 16) (h : j.val < sh.n),
          t.lanes[j.val] = ((mortonDecode (s.readCode sh)).get ⟨j.val, h⟩).setWidth 64) ∧
        SameLanesFrom sh.n s t ∧ t.cw = s.cw ∧
        t.status.onull = false ∧ SameBinding s t ∧ t.status.bitv = s.status.bitv ∧ Completed s t ∧ SameBus s t))

/-- R198: the lane-null bits at j ≥ N play no part in an encode, and no lane-null bit plays one in a decode. -/
def Obligations.NullBitsOutsideTheTupleAreIgnored : Prop :=
  ∀ (s t : State) (ln : BitVec 16), exec .exec s = .next t →
    s.desc.dir = .decode ∨ (∀ j, j < s.desc.n.toNat → ln.getLsbD j = s.nullm.ln.getLsbD j) →
    exec .exec { s with nullm := { s.nullm with ln := ln } } = .next { t with nullm := { t.nullm with ln := ln } }

/-- R24, R200: an encode depends on no lane bit at or above W and on no lane at or above N, and a decode on no CW bit at
or above N·W. -/
def Obligations.ExecIgnoresBitsOutsideTheTuple : Prop :=
  (∀ (s t : State) (lanes : Vector Reg64 16), exec .exec s = .next t → s.desc.dir = .encode →
    (∀ (j : Fin 16) (i : Nat), j.val < s.desc.n.toNat → i < s.desc.wc.bits →
      lanes[j.val].getLsbD i = s.lanes[j.val].getLsbD i) →
    exec .exec { s with lanes := lanes } = .next { t with lanes := lanes }) ∧
  (∀ (s t : State) (cw : CodeWord), exec .exec s = .next t → s.desc.dir = .decode →
    (∀ k, k < s.desc.n.toNat * s.desc.wc.bits → cw.getLsbD k = s.cw.getLsbD k) →
    exec .exec { s with cw := cw } = .next { t with cw := cw })

/-- R197: REPR, RF and RU play no part in EXEC's computation, for any values of theirs. -/
def Obligations.RepresentationPlaysNoPartInExec : Prop :=
  ∀ (s t : State) (r : ElemRepr) (rf ru : Bool), exec .exec s = .next t →
    exec .exec { s with desc := { s.desc with repr := r, rf := rf, ru := ru } } =
      .next { t with desc := { t.desc with repr := r, rf := rf, ru := ru } }

/-! ### Errors and who writes what -/

/-- R233, R232, R235: a command that raises records its error and its word, and changes nothing else but what R233
names. -/
def Obligations.FailingCommandsChangeOnlyTheErrorRegisters : Prop :=
  (∀ (i : Instr) (s t : State), exec i s = .next t → t.status.err ≠ 0 →
    t.status.errs = true ∧ t.ecmd = encode i ∧ SameData s t ∧ t.nullm = s.nullm ∧
    t.status.bitv = s.status.bitv ∧ SameBus s t ∧
    (i.opcode = .binde ∨ i.opcode = .bindd → t.desc.word = 0 ∧ t.status.bound = false) ∧
    (i.opcode ≠ .binde → i.opcode ≠ .bindd → t.desc = s.desc ∧ t.status.bound = s.status.bound) ∧
    (i = .exec → t.status.onull = false) ∧
    (i ≠ .exec → t.status.onull = s.status.onull)) ∧
  (∀ (w : CmdWord) (s : State) (rest : List BusEvent), (∀ i, decodeWord w ≠ .ok i) →
    s.pending = .write 0x008#12 4 (w.setWidth 64) :: rest →
    ∃ t, step s = .next t ∧ t.status.errs = true ∧ t.ecmd = w ∧ SameData s t ∧ SameBinding s t ∧ SameFlags s t)

/-- R236: a command that raises nothing leaves ERR and CAUSE 0, and ERRS and ECMD as they were. -/
def Obligations.SuccessLeavesTheStickyErrorRecord : Prop :=
  ∀ (i : Instr) (s t : State), exec i s = .next t → t.status.err = 0 → Completed s t

/-- R231: every command raises only the pairs (ERR, CAUSE) the table lists it under, and (0, 0) stands for none. -/
def Obligations.CommandsRaiseOnlyTheirListedErrors : Prop :=
  ∀ (i : Instr) (s t : State), exec i s = .next t →
    (t.status.err.toNat, t.status.cause.toNat) ∈ (0, 0) :: errorsOf i.opcode

/-- R33, R34: ONULL is written by EXEC alone, 1 exactly on the null path, and BITV by GETB alone; no host write but reset
changes either. -/
def Obligations.OnullAndBitvHaveOneWriterEach : Prop :=
  (∀ s t : State, exec .exec s = .next t → t.status.onull = (s.status.bound && s.nullm.tn)) ∧
  (∀ (i : Instr) (s t : State), i ≠ .exec → exec i s = .next t → t.status.onull = s.status.onull) ∧
  (∀ (p : Nat) (s t : State), exec (.getb p) s = .next t → t.status.bitv = s.cw.getLsbD p) ∧
  (∀ (i : Instr) (s t : State), (∀ p, i ≠ .getb p) → exec i s = .next t → t.status.bitv = s.status.bitv) ∧
  (∀ (s t : State) (rest : List BusEvent) (off : BitVec 12) (size : Nat) (data : Reg64), off ≠ 0x008#12 →
    s.pending = .write off size data :: rest → step s = .next t → SameFlags s t) ∧
  (∀ (w : CmdWord) (s : State) (rest : List BusEvent), (∀ i, decodeWord w ≠ .ok i) →
    s.pending = .write 0x008#12 4 (w.setWidth 64) :: rest → ∃ t, step s = .next t ∧ SameFlags s t)

/-- R28, R32, R36: DESC and BOUND change only in a bind or in reset; no command writes NULLM. -/
def Obligations.OnlyBindsWriteTheDescriptor : Prop :=
  (∀ (i : Instr) (s t : State), exec i s = .next t →
    t.nullm = s.nullm ∧ SameBus s t ∧
    (i.opcode ≠ .binde → i.opcode ≠ .bindd → t.desc = s.desc ∧ t.status.bound = s.status.bound) ∧
    (i.opcode = .binde ∨ i.opcode = .bindd → (t.status.bound = true ↔ t.status.err = 0) ∧
      (t.status.err ≠ 0 → t.desc.word = 0))) ∧
  (∀ s t : State, step s = .next t → t.desc ≠ s.desc ∨ t.status.bound ≠ s.status.bound →
    s.pending.head? = some .reset ∨
    ∃ size data i, s.pending.head? = some (.write 0x008#12 size data) ∧
      decodeWord (data.setWidth 32) = .ok i ∧ (i.opcode = .binde ∨ i.opcode = .bindd))

/-! ### The laws of the codecs -/

/-- R190, R191: Table(W, N) is defined exactly for a lane width, 1 ≤ N ≤ 16 and N·W ≤ 128, and is the smallest standard
width at least N·W; DecW(C, N) is the one W with Table(W, N) = C. -/
def Obligations.WidthTableIsTheSmallestStandardWidth : Prop :=
  (∀ (w : LaneWidth) (n : Nat) (c : CodeWidth), table w n = some c ↔ TableIs w.bits n c.bits) ∧
  (∀ (w : LaneWidth) (n : Nat), table w n ≠ none ↔ 1 ≤ n ∧ n ≤ 16 ∧ n * w.bits ≤ 128) ∧
  (∀ (w : LaneWidth) (n : Nat) (c : CodeWidth), table w n = some c →
    n * w.bits ≤ c.bits ∧ ∀ c' : CodeWidth, n * w.bits ≤ c'.bits → c.bits ≤ c'.bits) ∧
  (∀ (w : LaneWidth) (n : Nat) (c : CodeWidth), decW c n = some w ↔ table w n = some c)

/-- R121. -/
def Obligations.GrayCodesAreInverse : Prop :=
  ∀ (w : Nat) (x : BitVec w), grayDecode (grayEncode x) = x ∧ grayEncode (grayDecode x) = x

/-- R122: the two ordered maps are inverse. -/
def Obligations.OrderedMapsAreInverse : Prop :=
  ∀ (w : Nat) (r : ElemRepr) (u : BitVec w), ordDemote r (ordPromote r u) = u ∧ ordPromote r (ordDemote r u) = u

/-- R122: promotion is monotone, on two's-complement integers and on sign-magnitude patterns. That the sign-magnitude order
is the order of non-NaN floats, −0 below +0, is presumed (log entry 20): R112 marks the IEEE-754 layout as general
knowledge, not in the source, and nothing here speaks of reals. -/
def Obligations.PromotionIsMonotone : Prop :=
  ∀ (w : Nat) (a b : BitVec w), 0 < w →
    (a.toInt ≤ b.toInt ↔ ordPromote .sint a ≤ ordPromote .sint b) ∧
    (signMagnitude a ≤ signMagnitude b ↔ ordPromote .float a ≤ ordPromote .float b)

/-- R145. -/
def Obligations.InterleaveIsABijection : Prop :=
  ∀ (W N : Nat) (L : Lanes W N) (Z : BitVec (W * N)),
    deinterleave (interleave L) = L ∧ interleave (deinterleave Z : Lanes W N) = Z

/-- R161, R162(a): the networks are inverse to each other, and bit W−1 of every lane passes through both. -/
def Obligations.RotationNetworksAreInverse : Prop :=
  ∀ (W N : Nat) (X : Lanes W N), rotInv (rot X) = X ∧ rot (rotInv X) = X ∧
    ∀ j : Fin N, ((rot X).get j).getLsbD (W - 1) = (X.get j).getLsbD (W - 1) ∧
      ((rotInv X).get j).getLsbD (W - 1) = (X.get j).getLsbD (W - 1)

/-- R164, R168(3): the Hilbert codec is a bijection. -/
def Obligations.HilbertCodecIsABijection : Prop :=
  ∀ (W N : Nat) (L : Lanes W N) (Z : BitVec (W * N)),
    hilbertDecode (hilbertEncode L) = L ∧ hilbertEncode (hilbertDecode Z : Lanes W N) = Z

/-- R170: adjacent indices decode to tuples that differ in exactly one lane, by exactly 1. -/
def Obligations.HilbertAdjacentIndicesAreNeighbours : Prop :=
  ∀ (sh : LaneShape) (k : Nat), k + 1 < 2 ^ (sh.W * sh.n) →
    let A : Lanes sh.W sh.n := hilbertDecode (BitVec.ofNat (sh.W * sh.n) k)
    let B : Lanes sh.W sh.n := hilbertDecode (BitVec.ofNat (sh.W * sh.n) (k + 1))
    ∃ j : Fin sh.n, ((A.get j).toNat + 1 = (B.get j).toNat ∨ (B.get j).toNat + 1 = (A.get j).toNat) ∧
      ∀ i : Fin sh.n, i ≠ j → A.get i = B.get i

/-- R169: the 2-D table, at every lane width, both ways. -/
def Obligations.HilbertTwoDimensionalTable : Prop :=
  ∀ (w : LaneWidth) (k : Fin 16),
    let pairs : Vector (Nat × Nat) 16 :=
      #v[(0,0), (1,0), (1,1), (0,1), (0,2), (0,3), (1,3), (1,2), (2,2), (2,3), (3,3), (3,2), (3,1), (2,1), (2,0), (3,0)]
    let lanes : Lanes w.bits 2 := #v[BitVec.ofNat _ pairs[k.val].1, BitVec.ofNat _ pairs[k.val].2]
    hilbertEncode lanes = BitVec.ofNat _ k.val ∧ hilbertDecode (BitVec.ofNat _ k.val) = lanes

/-- R171: with one lane the Hilbert codec is the identity, and so equals the Morton codec. -/
def Obligations.HilbertOfOneLaneIsTheIdentity : Prop :=
  ∀ (W : Nat) (x : BitVec W) (z : BitVec (W * 1)),
    (hilbertEncode (#v[x] : Lanes W 1)).toNat = x.toNat ∧ (mortonEncode (#v[x] : Lanes W 1)).toNat = x.toNat ∧
    ((hilbertDecode z : Lanes W 1).get 0).toNat = z.toNat

/-- R172: the curve starts at the origin and ends at the far end of lane 0. -/
def Obligations.HilbertCurveEndPoints : Prop :=
  ∀ sh : LaneShape,
    hilbertEncode (Vector.replicate sh.n 0 : Lanes sh.W sh.n) = 0 ∧
    ∀ j : Fin sh.n, (hilbertDecode (BitVec.allOnes (sh.W * sh.n)) : Lanes sh.W sh.n).get j =
      if j.val = 0 then BitVec.allOnes sh.W else 0

/-- R201: encode then decode through the block's own commands restores the lanes, and decode then encode the code
word. -/
def Obligations.CommandsRoundTrip : Prop :=
  ∀ (s : State) (kind wc n repr W C cc : Nat) (rf ru : Bool),
    kind ≤ 1 → LaneOperands wc n W → repr ≤ 2 → (repr = 2 → W = 32 ∨ W = 64) → TableIs W n C → WidthCode cc C →
    (rf = true → W = 32 ∨ W = 64) → s.nullm.tn = false → (∀ j, j < n → s.nullm.ln.getLsbD j = false) →
    (∃ t1 t2 t3 t4, exec (.binde kind wc n repr) s = .next t1 ∧ exec .exec t1 = .next t2 ∧
      exec (.bindd kind cc n rf ru) t2 = .next t3 ∧ exec .exec t3 = .next t4 ∧
      ∀ (j : Fin 16) (i : Nat), j.val < n → i < W → t4.lanes[j.val].getLsbD i = s.lanes[j.val].getLsbD i) ∧
    ((∀ k, n * W ≤ k → s.cw.getLsbD k = false) →
      ∃ t1 t2 t3 t4, exec (.bindd kind cc n rf ru) s = .next t1 ∧ exec .exec t1 = .next t2 ∧
        exec (.binde kind wc n repr) t2 = .next t3 ∧ exec .exec t3 = .next t4 ∧ t4.cw = s.cw)

/-! ### The host's programs and the platform -/

/-- R97: each of the four codec pseudo-instructions, sent to a block with nothing pending, is its bind followed by EXEC,
and CLRERR clears ERRS alone; and the (W, REPR) of an element type. -/
def Obligations.PseudoInstructionsRunTheirCommands : Prop :=
  ([ElemType.i8, .i16, .i32, .i64, .u8, .u16, .u32, .u64, .f32, .f64].map fun t =>
      (t.lane.1.bits, t.lane.2.code.toNat)) =
    [(8, 1), (16, 1), (32, 1), (64, 1), (8, 0), (16, 0), (32, 0), (64, 0), (32, 2), (64, 2)] ∧
  ∀ s : State, s.pending = [] →
    (∀ (w : WidthOperand) (n : Nat) (r : ReprOperand), w.value < 8 → n < 32 → r.value < 4 →
      (∀ t u, exec (.binde 0 w.value n r.value) (served s []) = .next t → exec .exec t = .next u →
        Host.Core.run Sys2Proof.core 2 (s.send [.hilbertEncode w n r]) = .next u) ∧
      (∀ t u, exec (.binde 1 w.value n r.value) (served s []) = .next t → exec .exec t = .next u →
        Host.Core.run Sys2Proof.core 2 (s.send [.mortonEncode w n r]) = .next u)) ∧
    (∀ (c : WidthOperand) (n : Nat) (rf ru : Bool), c.value < 8 → n < 32 →
      (∀ t u, exec (.bindd 0 c.value n rf ru) (served s []) = .next t → exec .exec t = .next u →
        Host.Core.run Sys2Proof.core 2 (s.send [.hilbertDecode c n rf ru]) = .next u) ∧
      (∀ t u, exec (.bindd 1 c.value n rf ru) (served s []) = .next t → exec .exec t = .next u →
        Host.Core.run Sys2Proof.core 2 (s.send [.mortonDecode c n rf ru]) = .next u)) ∧
    (∃ t, Host.Core.run Sys2Proof.core 1 (s.send [.clrerr]) = .next t ∧
      SameRegisters { s with status := { s.status with errs := false } } t)

/-- R247, R10, R61: a platform has at least one copy, and no two at one BASE; an access reaches exactly the one copy whose
window of 0x1000 bytes at BASE holds its address, at its offset from BASE; a copy's step is the step of its own state and
changes no other copy; and neither changes the number of copies or a BASE. That a physical address has 64 bits and BASE
its upper 52 is the model's choice (log entry 17). -/
def Obligations.CopiesShareNothing : Prop :=
  (∀ p : Platform, 1 ≤ p.instances ∧
    ∀ (j k : Nat) (c d : BlockCopy), p.copies[j]? = some c → p.copies[k]? = some d → c.base = d.base → j = k) ∧
  (∀ (p : Platform) (a : PhysAccess) (k : Nat) (c : BlockCopy), p.copies[k]? = some c →
    ((c.base.toNat ≤ a.addr.toNat ∧ a.addr.toNat < c.base.toNat + 0x1000) →
      (p.deliver a).copies[k]? = some { c with block := { c.block with pending := c.block.pending ++ [a.event] } } ∧
      ∀ j, j ≠ k → (p.deliver a).copies[j]? = p.copies[j]?) ∧
    (¬(c.base.toNat ≤ a.addr.toNat ∧ a.addr.toNat < c.base.toNat + 0x1000) →
      (p.deliver a).copies[k]? = some c)) ∧
  (∀ (a data : Reg64) (c : BlockCopy) (size : Nat),
    c.base.toNat ≤ a.toNat ∧ a.toNat < c.base.toNat + 0x1000 →
      PhysAccess.event (.read a size) = .read (BitVec.ofNat 12 (a.toNat - c.base.toNat)) size ∧
      PhysAccess.event (.write a size data) = .write (BitVec.ofNat 12 (a.toNat - c.base.toNat)) size data) ∧
  (∀ (p : Platform) (k : Fin p.copies.length) (b : State), step p.copies[k].block = .next b →
    ∃ q, p.stepCopy k = .next q ∧ q.copies[k.val]? = some { p.copies[k] with block := b } ∧
      ∀ m, m ≠ k.val → q.copies[m]? = p.copies[m]?) ∧
  (∀ (p : Platform) (a : PhysAccess), (p.deliver a).copies.map BlockCopy.base = p.copies.map BlockCopy.base) ∧
  (∀ (p q : Platform) (k : Fin p.copies.length), p.stepCopy k = .next q →
    q.copies.map BlockCopy.base = p.copies.map BlockCopy.base)
end

