-- ==== Sys2Proof/Laws/Codec.lean ====
section
/-! SUPPORT. What the pure functions are, bit by bit. -/

namespace Sys2Proof.Machine

/-- A value built from its bits has those bits. -/
theorem ofBits_getLsbD {n : Nat} (f : Fin n → Bool) (p : Nat) :
    (ofBits n f).getLsbD p = if h : p < n then f ⟨p, h⟩ else false := by
  induction n with
  | zero => simp [ofBits]
  | succ n ih =>
    rw [ofBits, BitVec.getLsbD_cons, ih]
    by_cases hp : p = n
    · subst hp; simp [Fin.last]
    · by_cases hlt : p < n
      · simp [hp, hlt, Nat.lt_succ_of_lt hlt]
      · simp [hp, hlt, show ¬ p < n + 1 by omega]

/-- R110, bit by bit. -/
theorem grayEncode_getLsbD {w : Nat} (x : BitVec w) (k : Nat) :
    (grayEncode x).getLsbD k = (x.getLsbD k ^^ x.getLsbD (k + 1)) := by
  simp [grayEncode, Nat.add_comm]

/-- R140: bit i of lane j stands at position i·N + (N−1−j). -/
theorem interleave_getLsbD {W N : Nat} (L : Lanes W N) (i : Nat) (hi : i < W) (j : Fin N) :
    (interleave L).getLsbD (i * N + (N - 1 - j.val)) = (L.get j).getLsbD i := by
  have hj := j.isLt
  have hp : i * N + (N - 1 - j.val) < W * N := by
    have : (i + 1) * N ≤ W * N := Nat.mul_le_mul_right N hi
    rw [Nat.add_mul, Nat.one_mul] at this
    omega
  have hmod : (i * N + (N - 1 - j.val)) % N = N - 1 - j.val := by
    rw [Nat.mul_comm, Nat.mul_add_mod]; exact Nat.mod_eq_of_lt (by omega)
  have hdiv : (i * N + (N - 1 - j.val)) / N = i := by
    rw [Nat.mul_comm, Nat.mul_add_div (by omega), Nat.div_eq_of_lt (by omega), Nat.add_zero]
  rw [interleave, ofBits_getLsbD, dif_pos hp]
  have hrev : (Fin.modNat (m := W) ⟨i * N + (N - 1 - j.val), hp⟩).rev = j := by
    apply Fin.ext
    simp only [Fin.val_rev, Fin.modNat]
    omega
  rw [hrev]
  simp [Fin.divNat, hdiv]

/-- R141: bit i of lane j comes from position i·N + (N−1−j). -/
theorem deinterleave_getLsbD {W N : Nat} (Z : BitVec (W * N)) (i : Nat) (j : Fin N) :
    ((deinterleave Z).get j).getLsbD i = (decide (i < W) && Z.getLsbD (i * N + (N - 1 - j.val))) := by
  simp only [deinterleave, Vector.get_ofFn, ofBits_getLsbD]
  by_cases h : i < W <;> simp [h]

/-- The lane a stage tests, and what a stage leaves of every lane that is neither lane 0 nor its own (R160). -/
theorem rotStage_get_other {W N : Nat} (k : Nat) (i j : Fin N) (X : Lanes W N) (h0 : j.val ≠ 0) (hi : j ≠ i) :
    (rotStage k i X).get j = X.get j := by
  have hij : i.val ≠ j.val := fun h => hi (Fin.ext h.symm)
  simp only [rotStage]
  split <;> simp [Vector.get_eq_getElem, Vector.getElem_set, Ne.symm h0, hij]

end Sys2Proof.Machine
end

