-- ==== Sys2Proof/Laws/State.lean ====
section
/-! SUPPORT. One lemma per field per update of the state, so that no proof unfolds a record update. -/

namespace Sys2Proof.Machine

@[simp] theorem State.writeCw_cw (s : State) (v : CodeWord) : (s.writeCw v).cw = v := rfl
@[simp] theorem State.writeCw_lanes (s : State) (v : CodeWord) : (s.writeCw v).lanes = s.lanes := rfl
@[simp] theorem State.writeCw_desc (s : State) (v : CodeWord) : (s.writeCw v).desc = s.desc := rfl
@[simp] theorem State.writeCw_status (s : State) (v : CodeWord) : (s.writeCw v).status = s.status := rfl
@[simp] theorem State.writeCw_nullm (s : State) (v : CodeWord) : (s.writeCw v).nullm = s.nullm := rfl
@[simp] theorem State.writeCw_ecmd (s : State) (v : CodeWord) : (s.writeCw v).ecmd = s.ecmd := rfl
@[simp] theorem State.writeCw_pending (s : State) (v : CodeWord) : (s.writeCw v).pending = s.pending := rfl
@[simp] theorem State.writeCw_reply (s : State) (v : CodeWord) : (s.writeCw v).reply = s.reply := rfl

@[simp] theorem State.writeLane_cw (s : State) (j : Fin 16) (v : Reg64) : (s.writeLane j v).cw = s.cw := rfl
@[simp] theorem State.writeLane_lanes (s : State) (j : Fin 16) (v : Reg64) : (s.writeLane j v).lanes = s.lanes.set j.val v := rfl
@[simp] theorem State.writeLane_desc (s : State) (j : Fin 16) (v : Reg64) : (s.writeLane j v).desc = s.desc := rfl
@[simp] theorem State.writeLane_status (s : State) (j : Fin 16) (v : Reg64) : (s.writeLane j v).status = s.status := rfl
@[simp] theorem State.writeLane_nullm (s : State) (j : Fin 16) (v : Reg64) : (s.writeLane j v).nullm = s.nullm := rfl
@[simp] theorem State.writeLane_ecmd (s : State) (j : Fin 16) (v : Reg64) : (s.writeLane j v).ecmd = s.ecmd := rfl
@[simp] theorem State.writeLane_pending (s : State) (j : Fin 16) (v : Reg64) : (s.writeLane j v).pending = s.pending := rfl
@[simp] theorem State.writeLane_reply (s : State) (j : Fin 16) (v : Reg64) : (s.writeLane j v).reply = s.reply := rfl

@[simp] theorem State.mapStatus_cw (s : State) (f : Status → Status) : (s.mapStatus f).cw = s.cw := rfl
@[simp] theorem State.mapStatus_lanes (s : State) (f : Status → Status) : (s.mapStatus f).lanes = s.lanes := rfl
@[simp] theorem State.mapStatus_desc (s : State) (f : Status → Status) : (s.mapStatus f).desc = s.desc := rfl
@[simp] theorem State.mapStatus_status (s : State) (f : Status → Status) : (s.mapStatus f).status = f s.status := rfl
@[simp] theorem State.mapStatus_nullm (s : State) (f : Status → Status) : (s.mapStatus f).nullm = s.nullm := rfl
@[simp] theorem State.mapStatus_ecmd (s : State) (f : Status → Status) : (s.mapStatus f).ecmd = s.ecmd := rfl
@[simp] theorem State.mapStatus_pending (s : State) (f : Status → Status) : (s.mapStatus f).pending = s.pending := rfl
@[simp] theorem State.mapStatus_reply (s : State) (f : Status → Status) : (s.mapStatus f).reply = s.reply := rfl

@[simp] theorem State.bindTo_cw (s : State) (d : Desc) (b : Bool) : (s.bindTo d b).cw = s.cw := rfl
@[simp] theorem State.bindTo_lanes (s : State) (d : Desc) (b : Bool) : (s.bindTo d b).lanes = s.lanes := rfl
@[simp] theorem State.bindTo_desc (s : State) (d : Desc) (b : Bool) : (s.bindTo d b).desc = d := rfl
@[simp] theorem State.bindTo_status (s : State) (d : Desc) (b : Bool) : (s.bindTo d b).status = s.status.setBound b := rfl
@[simp] theorem State.bindTo_nullm (s : State) (d : Desc) (b : Bool) : (s.bindTo d b).nullm = s.nullm := rfl
@[simp] theorem State.bindTo_ecmd (s : State) (d : Desc) (b : Bool) : (s.bindTo d b).ecmd = s.ecmd := rfl
@[simp] theorem State.bindTo_pending (s : State) (d : Desc) (b : Bool) : (s.bindTo d b).pending = s.pending := rfl
@[simp] theorem State.bindTo_reply (s : State) (d : Desc) (b : Bool) : (s.bindTo d b).reply = s.reply := rfl

@[simp] theorem State.recordError_cw (s : State) (w : CmdWord) (e : CmdError) : (s.recordError w e).cw = s.cw := rfl
@[simp] theorem State.recordError_lanes (s : State) (w : CmdWord) (e : CmdError) : (s.recordError w e).lanes = s.lanes := rfl
@[simp] theorem State.recordError_desc (s : State) (w : CmdWord) (e : CmdError) : (s.recordError w e).desc = s.desc := rfl
@[simp] theorem State.recordError_status (s : State) (w : CmdWord) (e : CmdError) : (s.recordError w e).status = s.status.failed e := rfl
@[simp] theorem State.recordError_nullm (s : State) (w : CmdWord) (e : CmdError) : (s.recordError w e).nullm = s.nullm := rfl
@[simp] theorem State.recordError_ecmd (s : State) (w : CmdWord) (e : CmdError) : (s.recordError w e).ecmd = w := rfl
@[simp] theorem State.recordError_pending (s : State) (w : CmdWord) (e : CmdError) : (s.recordError w e).pending = s.pending := rfl
@[simp] theorem State.recordError_reply (s : State) (w : CmdWord) (e : CmdError) : (s.recordError w e).reply = s.reply := rfl

@[simp] theorem State.complete_cw (s : State) : (s.complete).cw = s.cw := rfl
@[simp] theorem State.complete_lanes (s : State) : (s.complete).lanes = s.lanes := rfl
@[simp] theorem State.complete_desc (s : State) : (s.complete).desc = s.desc := rfl
@[simp] theorem State.complete_status (s : State) : (s.complete).status = s.status.succeeded := rfl
@[simp] theorem State.complete_nullm (s : State) : (s.complete).nullm = s.nullm := rfl
@[simp] theorem State.complete_ecmd (s : State) : (s.complete).ecmd = s.ecmd := rfl
@[simp] theorem State.complete_pending (s : State) : (s.complete).pending = s.pending := rfl
@[simp] theorem State.complete_reply (s : State) : (s.complete).reply = s.reply := rfl

@[simp] theorem State.answer_cw (s : State) (r : BusReply) : (s.answer r).cw = s.cw := rfl
@[simp] theorem State.answer_lanes (s : State) (r : BusReply) : (s.answer r).lanes = s.lanes := rfl
@[simp] theorem State.answer_desc (s : State) (r : BusReply) : (s.answer r).desc = s.desc := rfl
@[simp] theorem State.answer_status (s : State) (r : BusReply) : (s.answer r).status = s.status := rfl
@[simp] theorem State.answer_nullm (s : State) (r : BusReply) : (s.answer r).nullm = s.nullm := rfl
@[simp] theorem State.answer_ecmd (s : State) (r : BusReply) : (s.answer r).ecmd = s.ecmd := rfl
@[simp] theorem State.answer_pending (s : State) (r : BusReply) : (s.answer r).pending = s.pending := rfl
@[simp] theorem State.answer_reply (s : State) (r : BusReply) : (s.answer r).reply = some r := rfl

@[simp] theorem State.writeLanes_cw (s : State) (sh : LaneShape) (L : Lanes sh.W sh.n) : (s.writeLanes sh L).cw = s.cw := rfl
@[simp] theorem State.writeLanes_desc (s : State) (sh : LaneShape) (L : Lanes sh.W sh.n) : (s.writeLanes sh L).desc = s.desc := rfl
@[simp] theorem State.writeLanes_status (s : State) (sh : LaneShape) (L : Lanes sh.W sh.n) : (s.writeLanes sh L).status = s.status := rfl
@[simp] theorem State.writeLanes_nullm (s : State) (sh : LaneShape) (L : Lanes sh.W sh.n) : (s.writeLanes sh L).nullm = s.nullm := rfl
@[simp] theorem State.writeLanes_ecmd (s : State) (sh : LaneShape) (L : Lanes sh.W sh.n) : (s.writeLanes sh L).ecmd = s.ecmd := rfl
@[simp] theorem State.writeLanes_pending (s : State) (sh : LaneShape) (L : Lanes sh.W sh.n) : (s.writeLanes sh L).pending = s.pending := rfl
@[simp] theorem State.writeLanes_reply (s : State) (sh : LaneShape) (L : Lanes sh.W sh.n) : (s.writeLanes sh L).reply = s.reply := rfl

@[simp] theorem Status.failed_err (x : Status) (e : CmdError) : (x.failed e).err = e.cls.code := rfl
@[simp] theorem Status.failed_cause (x : Status) (e : CmdError) : (x.failed e).cause = e.cause := rfl
@[simp] theorem Status.failed_bound (x : Status) (e : CmdError) : (x.failed e).bound = x.bound := rfl
@[simp] theorem Status.failed_onull (x : Status) (e : CmdError) : (x.failed e).onull = x.onull := rfl
@[simp] theorem Status.failed_bitv (x : Status) (e : CmdError) : (x.failed e).bitv = x.bitv := rfl
@[simp] theorem Status.failed_errs (x : Status) (e : CmdError) : (x.failed e).errs = true := rfl

@[simp] theorem Status.succeeded_err (x : Status) : (x.succeeded).err = 0 := rfl
@[simp] theorem Status.succeeded_cause (x : Status) : (x.succeeded).cause = 0 := rfl
@[simp] theorem Status.succeeded_bound (x : Status) : (x.succeeded).bound = x.bound := rfl
@[simp] theorem Status.succeeded_onull (x : Status) : (x.succeeded).onull = x.onull := rfl
@[simp] theorem Status.succeeded_bitv (x : Status) : (x.succeeded).bitv = x.bitv := rfl
@[simp] theorem Status.succeeded_errs (x : Status) : (x.succeeded).errs = x.errs := rfl

@[simp] theorem Status.setBound_err (x : Status) (b : Bool) : (x.setBound b).err = x.err := rfl
@[simp] theorem Status.setBound_cause (x : Status) (b : Bool) : (x.setBound b).cause = x.cause := rfl
@[simp] theorem Status.setBound_bound (x : Status) (b : Bool) : (x.setBound b).bound = b := rfl
@[simp] theorem Status.setBound_onull (x : Status) (b : Bool) : (x.setBound b).onull = x.onull := rfl
@[simp] theorem Status.setBound_bitv (x : Status) (b : Bool) : (x.setBound b).bitv = x.bitv := rfl
@[simp] theorem Status.setBound_errs (x : Status) (b : Bool) : (x.setBound b).errs = x.errs := rfl

@[simp] theorem Status.setOnull_err (x : Status) (b : Bool) : (x.setOnull b).err = x.err := rfl
@[simp] theorem Status.setOnull_cause (x : Status) (b : Bool) : (x.setOnull b).cause = x.cause := rfl
@[simp] theorem Status.setOnull_bound (x : Status) (b : Bool) : (x.setOnull b).bound = x.bound := rfl
@[simp] theorem Status.setOnull_onull (x : Status) (b : Bool) : (x.setOnull b).onull = b := rfl
@[simp] theorem Status.setOnull_bitv (x : Status) (b : Bool) : (x.setOnull b).bitv = x.bitv := rfl
@[simp] theorem Status.setOnull_errs (x : Status) (b : Bool) : (x.setOnull b).errs = x.errs := rfl

@[simp] theorem Status.setBitv_err (x : Status) (b : Bool) : (x.setBitv b).err = x.err := rfl
@[simp] theorem Status.setBitv_cause (x : Status) (b : Bool) : (x.setBitv b).cause = x.cause := rfl
@[simp] theorem Status.setBitv_bound (x : Status) (b : Bool) : (x.setBitv b).bound = x.bound := rfl
@[simp] theorem Status.setBitv_onull (x : Status) (b : Bool) : (x.setBitv b).onull = x.onull := rfl
@[simp] theorem Status.setBitv_bitv (x : Status) (b : Bool) : (x.setBitv b).bitv = b := rfl
@[simp] theorem Status.setBitv_errs (x : Status) (b : Bool) : (x.setBitv b).errs = x.errs := rfl

@[simp] theorem Status.clearErrs_err (x : Status) (b : Bool) : (x.clearErrs b).err = x.err := rfl
@[simp] theorem Status.clearErrs_cause (x : Status) (b : Bool) : (x.clearErrs b).cause = x.cause := rfl
@[simp] theorem Status.clearErrs_bound (x : Status) (b : Bool) : (x.clearErrs b).bound = x.bound := rfl
@[simp] theorem Status.clearErrs_onull (x : Status) (b : Bool) : (x.clearErrs b).onull = x.onull := rfl
@[simp] theorem Status.clearErrs_bitv (x : Status) (b : Bool) : (x.clearErrs b).bitv = x.bitv := rfl
@[simp] theorem Status.clearErrs_errs (x : Status) (b : Bool) : (x.clearErrs b).errs = (x.errs && !b) := rfl

/-- A lane below the count, after the lanes are written: the value, zero-extended (R25). -/
theorem State.writeLanes_get_lt (s : State) (sh : LaneShape) (L : Lanes sh.W sh.n) (j : Fin 16) (h : j.val < sh.n) :
    (s.writeLanes sh L).lanes[j.val] = (L.get ⟨j.val, h⟩).setWidth 64 := by
  simp [State.writeLanes, h]

/-- A lane at or above the count is not written (R23). -/
theorem State.writeLanes_get_ge (s : State) (sh : LaneShape) (L : Lanes sh.W sh.n) (j : Fin 16) (h : sh.n ≤ j.val) :
    (s.writeLanes sh L).lanes[j.val] = s.lanes[j.val] := by
  simp [State.writeLanes, Nat.not_lt.mpr h]

/-- A lane operand is the low W bits of its register (R24). -/
@[simp] theorem State.readLanes_get (s : State) (sh : LaneShape) (j : Fin sh.n) :
    (s.readLanes sh).get j = (s.lanes[j.val]'(Nat.lt_of_lt_of_le j.isLt sh.le_max)).setWidth sh.W := by
  simp [State.readLanes, Vector.get_ofFn]

end Sys2Proof.Machine
end

