-- ==== Sys2Proof/Laws/Ops.lean ====
section
/-! SUPPORT. What each shared operation can do, said once: the lane-shape checks, raising, finishing, and the answer of
every meaning. -/

namespace Sys2Proof.Machine

/-- The lane checks pass exactly on a width code below 4, a count in 1..16 and N·W at most 128 (R143, R193). -/
theorem laneShape_ok_iff (wc n : Nat) (sh : LaneShape) :
    laneShape wc n = .ok sh ↔ LaneWidth.ofCode? wc = some sh.w ∧ n = sh.n := by
  obtain ⟨w, m, h1, h16, hf⟩ := sh
  unfold laneShape
  cases hw : LaneWidth.ofCode? wc with
  | none => simp
  | some w' =>
    simp only [Option.some.injEq]
    constructor
    · intro h
      split at h
      · cases h
      · split at h
        · cases h
        · cases h; exact ⟨rfl, rfl⟩
    · rintro ⟨rfl, rfl⟩
      rw [dif_neg (by omega), dif_neg (by omega)]

/-- The first lane check that fails: the width code, then the count, then N·W (R234). -/
theorem laneShape_error_iff (wc n : Nat) (e : CmdError) :
    laneShape wc n = .error e ↔
      (LaneWidth.ofCode? wc = none ∧ e = .widthCode) ∨
      (∃ w, LaneWidth.ofCode? wc = some w ∧ (n < 1 ∨ n > 16) ∧ e = .laneCount) ∨
      (∃ w, LaneWidth.ofCode? wc = some w ∧ ¬(n < 1 ∨ n > 16) ∧ n * w.bits > 128 ∧ e = .tupleWidth) := by
  unfold laneShape
  cases hw : LaneWidth.ofCode? wc with
  | none => simp [eq_comm]
  | some w =>
    simp only [reduceCtorEq, false_and, false_or, Option.some.injEq, exists_eq_left']
    by_cases h : n < 1 ∨ n > 16
    · rw [dif_pos h]; simp only [Except.error.injEq, h, true_and, not_true, false_and, or_false]; exact eq_comm
    · rw [dif_neg h]
      by_cases h2 : n * w.bits > 128
      · rw [dif_pos h2]; simp only [Except.error.injEq, h, h2, not_false_iff, true_and, false_and, false_or]; exact eq_comm
      · rw [dif_neg h2]; simp only [reduceCtorEq, h, h2, false_and, and_false, or_false]

/-- The shape of a descriptor is that of its lane width and count. -/
theorem Desc.shape?_eq_some (d : Desc) (sh : LaneShape) : d.shape? = some sh ↔ d.wc = sh.w ∧ d.n.toNat = sh.n := by
  have hcode : LaneWidth.ofCode? d.wc.code.toNat = some d.wc := by cases d.wc <;> rfl
  have h := laneShape_ok_iff d.wc.code.toNat d.n.toNat sh
  rw [hcode, Option.some.injEq] at h
  rw [← h, Desc.shape?]
  cases laneShape d.wc.code.toNat d.n.toNat <;> simp [Except.toOption]

/-- A command that ends by `finish` always answers a next state (R237). -/
theorem finish_answers (i : Instr) (s : State) (r : Except CmdError State) : ∃ t, finish i s r = .next t := by
  cases r <;> exact ⟨_, rfl⟩

/-- Completing (R236). -/
@[simp] theorem finish_ok (i : Instr) (s t : State) : finish i s (.ok t) = .next t.complete := rfl

/-- Raising (R232). -/
@[simp] theorem finish_error (i : Instr) (s : State) (e : CmdError) : finish i s (.error e) = .next (s.raise i e) := rfl

/-- What a command answers: it raises in the state it began in, or it completes (R235). -/
theorem finish_cases {i : Instr} {s t : State} {r : Except CmdError State} (h : finish i s r = .next t) :
    (∃ e, r = .error e ∧ t = s.raise i e) ∨ (∃ u, r = .ok u ∧ t = u.complete) := by
  cases r with
  | error e => exact .inl ⟨e, rfl, by simpa using h.symm⟩
  | ok u => exact .inr ⟨u, rfl, by simpa using h.symm⟩

/-- What a raise leaves alone in every command (R233). -/
theorem State.raise_frame (s : State) (i : Instr) (e : CmdError) :
    (s.raise i e).cw = s.cw ∧ (s.raise i e).lanes = s.lanes ∧ (s.raise i e).nullm = s.nullm ∧
    (s.raise i e).pending = s.pending ∧ (s.raise i e).reply = s.reply ∧
    (s.raise i e).status.bitv = s.status.bitv := by
  cases i <;> cases e <;> exact ⟨rfl, rfl, rfl, rfl, rfl, rfl⟩

/-- What a raise records in every command (R232). -/
theorem State.raise_records (s : State) (i : Instr) (e : CmdError) :
    (s.raise i e).status.err = e.cls.code ∧ (s.raise i e).status.cause = e.cause ∧
    (s.raise i e).status.errs = true ∧ (s.raise i e).ecmd = encode i := by
  cases i <;> cases e <;> exact ⟨rfl, rfl, rfl, rfl⟩

/-- No error has the code of "none" (R230). -/
theorem ErrorClass.code_ne_zero (c : ErrorClass) : c.code ≠ 0 := by cases c <;> decide

/-- Every command but EXEC answers a next state in every state and on every operand. -/
theorem exec_answers (i : Instr) (s : State) (h : i ≠ .exec) : ∃ t, exec i s = .next t := by
  cases i with
  | exec => exact absurd rfl h
  | nop => simp only [exec, execNop]; exact finish_answers _ _ _
  | binde kind wc n repr => simp only [exec, execBinde]; exact finish_answers _ _ _
  | bindd kind wc n rf ru => simp only [exec, execBindd]; exact finish_answers _ _ _
  | getb p => simp only [exec, execGetb]; exact finish_answers _ _ _
  | setb p v => simp only [exec, execSetb]; exact finish_answers _ _ _
  | graye wc => simp only [exec, execGraye]; exact finish_answers _ _ _
  | grayd wc => simp only [exec, execGrayd]; exact finish_answers _ _ _
  | ordp wc repr => simp only [exec, execOrdp]; exact finish_answers _ _ _
  | ordd wc repr => simp only [exec, execOrdd]; exact finish_answers _ _ _
  | ilv wc n => simp only [exec, execIlv]; exact finish_answers _ _ _
  | dil wc n => simp only [exec, execDil]; exact finish_answers _ _ _
  | rotf wc n => simp only [exec, execRotf]; exact finish_answers _ _ _
  | roti wc n => simp only [exec, execRoti]; exact finish_answers _ _ _

/-- EXEC stops only where BOUND = 1 and DESC has no lane shape (log entry 6). -/
theorem execExec_answers (s : State) (h : s.status.bound = true → s.desc.shape? ≠ none) :
    ∃ t, execExec s = .next t := by
  unfold execExec
  split
  · rename_i hb
    split
    · rename_i hn; exact absurd hn (h hb)
    · exact finish_answers _ _ _
  · exact finish_answers _ _ _

/-- What a command whose checks give its operands answers (R235). -/
theorem finish_map_cases {α : Type} {i : Instr} {s t : State} {x : Except CmdError α} {f : α → State}
    (h : finish i s (x.map f) = .next t) :
    (∃ e, x = .error e ∧ t = s.raise i e) ∨ (∃ a, x = .ok a ∧ t = (f a).complete) := by
  cases x with
  | error e => exact .inl ⟨e, rfl, (Host.Outcome.next.inj h).symm⟩
  | ok a => exact .inr ⟨a, rfl, (Host.Outcome.next.inj h).symm⟩

/-- The three ways a bound EXEC completes: the null path, an encode, a decode (R196). -/
theorem runCodec_cases {s u : State} {sh : LaneShape} (h : runCodec s sh = .ok u) :
    (s.nullm.tn = true ∧ u = s.mapStatus fun f => f.setOnull true) ∨
    (s.nullm.tn = false ∧ s.desc.dir = .encode ∧ s.nullLanes sh.n = 0#16 ∧
      u = (s.writeCw ((codecEncode s.desc.kind (s.readLanes sh)).setWidth 128)).mapStatus fun f => f.setOnull false) ∨
    (s.nullm.tn = false ∧ s.desc.dir = .decode ∧
      u = (s.writeLanes sh (codecDecode s.desc.kind (s.readCode sh))).mapStatus fun f => f.setOnull false) := by
  unfold runCodec at h
  cases htn : s.nullm.tn with
  | true => rw [htn, if_pos rfl] at h; exact .inl ⟨rfl, (Except.ok.inj h).symm⟩
  | false =>
    rw [htn, if_neg (by decide)] at h
    cases hd : s.desc.dir with
    | decode => rw [hd] at h; exact .inr (.inr ⟨rfl, rfl, (Except.ok.inj h).symm⟩)
    | encode =>
      rw [hd] at h
      simp only at h
      by_cases hn : s.nullLanes sh.n ≠ 0#16
      · rw [if_pos hn] at h; cases h
      · rw [if_neg hn] at h; exact .inr (.inl ⟨rfl, rfl, Decidable.not_not.mp hn, (Except.ok.inj h).symm⟩)

/-- The one error a bound EXEC raises: a null lane on an encode (R196, R198). -/
theorem runCodec_error {s : State} {sh : LaneShape} {e : CmdError} (h : runCodec s sh = .error e) :
    e = .nullLane ∧ s.nullm.tn = false ∧ s.desc.dir = .encode ∧ s.nullLanes sh.n ≠ 0#16 := by
  unfold runCodec at h
  cases htn : s.nullm.tn with
  | true => rw [htn, if_pos rfl] at h; cases h
  | false =>
    rw [htn, if_neg (by decide)] at h
    cases hd : s.desc.dir with
    | decode => rw [hd] at h; cases h
    | encode =>
      rw [hd] at h
      simp only at h
      by_cases hn : s.nullLanes sh.n ≠ 0#16
      · rw [if_pos hn] at h; exact ⟨(Except.error.inj h).symm, rfl, rfl, hn⟩
      · rw [if_neg hn] at h; cases h

/-- What EXEC answers: unbound, it raises; bound, its codec raises or completes (R196). -/
theorem execExec_cases {s t : State} (h : execExec s = .next t) :
    (s.status.bound = false ∧ t = s.raise .exec .unbound) ∨
    (s.status.bound = true ∧ ∃ sh, s.desc.shape? = some sh ∧
      ((∃ e, runCodec s sh = .error e ∧ t = s.raise .exec e) ∨ ∃ u, runCodec s sh = .ok u ∧ t = u.complete)) := by
  unfold execExec at h
  cases hb : s.status.bound with
  | false => rw [hb, if_neg (by decide)] at h; exact .inl ⟨rfl, (Host.Outcome.next.inj h).symm⟩
  | true =>
    rw [hb, if_pos rfl] at h
    cases hs : s.desc.shape? with
    | none => rw [hs] at h; cases h
    | some sh => rw [hs] at h; exact .inr ⟨rfl, sh, rfl, finish_cases h⟩

/-- What the own effect of the command `i` leaves alone, whichever command it is. -/
structure Effect (i : Instr) (s u : State) : Prop where
  nullm : u.nullm = s.nullm
  errs : u.status.errs = s.status.errs
  ecmd : u.ecmd = s.ecmd
  pending : u.pending = s.pending
  reply : u.reply = s.reply
  binding : i.opcode ≠ .binde → i.opcode ≠ .bindd → u.desc = s.desc ∧ u.status.bound = s.status.bound
  onull : i ≠ .exec → u.status.onull = s.status.onull
  bitv : (∀ p, i ≠ .getb p) → u.status.bitv = s.status.bitv

/-- NOP's. -/
theorem Effect.refl (i : Instr) (s : State) : Effect i s s :=
  ⟨rfl, rfl, rfl, rfl, rfl, fun _ _ => ⟨rfl, rfl⟩, fun _ => rfl, fun _ => rfl⟩

/-- That of a command that writes CW. -/
theorem Effect.writeCw (i : Instr) (s : State) (v : CodeWord) : Effect i s (s.writeCw v) :=
  ⟨rfl, rfl, rfl, rfl, rfl, fun _ _ => ⟨rfl, rfl⟩, fun _ => rfl, fun _ => rfl⟩

/-- That of a command that writes lanes. -/
theorem Effect.writeLanes (i : Instr) (s : State) (sh : LaneShape) (L : Lanes sh.W sh.n) :
    Effect i s (s.writeLanes sh L) := by
  constructor <;> simp only [State.writeLanes_nullm, State.writeLanes_status, State.writeLanes_ecmd,
    State.writeLanes_pending, State.writeLanes_reply, State.writeLanes_desc, implies_true, and_self]

/-- EXEC writes ONULL besides. -/
theorem Effect.setOnull {s u : State} (h : Effect .exec s u) (b : Bool) :
    Effect .exec s (u.mapStatus fun f => f.setOnull b) :=
  ⟨h.nullm, h.errs, h.ecmd, h.pending, h.reply, h.binding, fun hne => absurd rfl hne, h.bitv⟩

/-- What every command answers: it raises in the state it began in, or its own effect completes (R232, R235, R236). -/
theorem exec_cases {i : Instr} {s t : State} (h : exec i s = .next t) :
    (∃ e, t = s.raise i e) ∨ (∃ u, t = u.complete ∧ Effect i s u) := by
  have ok : ∀ {u : State}, finish i s (.ok u) = .next t → Effect i s u →
      (∃ e, t = s.raise i e) ∨ (∃ u, t = u.complete ∧ Effect i s u) :=
    fun h hu => .inr ⟨_, (Host.Outcome.next.inj h).symm, hu⟩
  have map : ∀ {α : Type} {x : Except CmdError α} {f : α → State}, finish i s (x.map f) = .next t →
      (∀ a, Effect i s (f a)) → (∃ e, t = s.raise i e) ∨ (∃ u, t = u.complete ∧ Effect i s u) := by
    intro α x f h hf
    rcases finish_map_cases h with ⟨e, -, rfl⟩ | ⟨a, -, rfl⟩
    · exact .inl ⟨e, rfl⟩
    · exact .inr ⟨_, rfl, hf a⟩
  cases i <;> simp only [exec] at h
  case exec =>
    rcases execExec_cases h with ⟨-, rfl⟩ | ⟨-, sh, -, ⟨e, -, rfl⟩ | ⟨u, hu, rfl⟩⟩
    · exact .inl ⟨_, rfl⟩
    · exact .inl ⟨_, rfl⟩
    · refine .inr ⟨u, rfl, ?_⟩
      rcases runCodec_cases hu with ⟨-, hu⟩ | ⟨-, -, -, hu⟩ | ⟨-, -, hu⟩ <;> rw [hu]
      · exact (Effect.refl _ s).setOnull true
      · exact (Effect.writeCw _ s _).setOnull false
      · exact (Effect.writeLanes _ s sh _).setOnull false
  case nop => exact ok h (.refl _ s)
  case getb p =>
    exact ok h ⟨rfl, rfl, rfl, rfl, rfl, fun _ _ => ⟨rfl, rfl⟩, fun _ => rfl, fun hne => absurd rfl (hne p)⟩
  case setb => exact ok h (.writeCw _ s _)
  case binde => exact map h fun d => ⟨rfl, rfl, rfl, rfl, rfl, fun hne _ => absurd rfl hne, fun _ => rfl, fun _ => rfl⟩
  case bindd => exact map h fun d => ⟨rfl, rfl, rfl, rfl, rfl, fun _ hne => absurd rfl hne, fun _ => rfl, fun _ => rfl⟩
  case graye => exact map h fun _ => .writeCw _ s _
  case grayd => exact map h fun _ => .writeCw _ s _
  case ordp => exact map h fun _ => .writeCw _ s _
  case ordd => exact map h fun _ => .writeCw _ s _
  case ilv => exact map h fun _ => .writeCw _ s _
  case dil => exact map h fun _ => .writeLanes _ s _ _
  case rotf => exact map h fun _ => .writeLanes _ s _ _
  case roti => exact map h fun _ => .writeLanes _ s _ _

end Sys2Proof.Machine
end

