-- ==== Sys2Proof/Laws/PerInstr.lean ====
section
/-! SUPPORT. One statement per instruction, as syntax: the word its encoder makes sets only bits that R91 lets a command
of its opcode set, for every value of its fields. -/

namespace Sys2Proof.Laws

open Sys2Proof

/-- A field's value sets no bit outside the field. -/
theorem put_within (f : Field) (x k : Nat) (h : f.mask.getLsbD k = false) : (f.put x).getLsbD k = false := by
  simp only [Field.put, Field.mask, BitVec.getLsbD_shiftLeft, BitVec.getLsbD_setWidth, BitVec.getLsbD_allOnes,
    BitVec.getLsbD_ofNat] at h ⊢
  by_cases hw : k - f.lo < f.width
  · simp only [hw, decide_true, Bool.and_true, Bool.true_and] at h ⊢
    rw [← Bool.and_assoc, h, Bool.false_and]
  · simp [hw]

/-- An OP value sets no bit outside OP. -/
theorem op_within (k c : Nat) (hc : c < 2 ^ 5) (h : (0x1F#32).getLsbD k = false) :
    (BitVec.ofNat 32 c).getLsbD k = false := by
  have hk : ¬ k < 5 := fun hk => by interval_cases k <;> exact absurd h (by decide)
  have h2 : 2 ^ 5 ≤ 2 ^ k := Nat.pow_le_pow_right (Nat.zero_lt_two) (Nat.not_lt.mp hk)
  rw [BitVec.getLsbD_ofNat, Nat.testBit_lt_two_pow (Nat.lt_of_lt_of_le hc h2), Bool.and_false]

/-- What sets only bits of the mask is 0 outside it. -/
theorem within_mask (w m : CmdWord) (h : ∀ k, m.getLsbD k = false → w.getLsbD k = false) : w &&& ~~~m = 0#32 := by
  apply BitVec.eq_of_getLsbD_eq
  intro k hk
  cases hm : m.getLsbD k with
  | false => simp [h k hm]
  | true => simp [hm]

namespace UsedBits

/-- R91: every bit outside OP and the fields used is 0 in the encoded word. -/
def Statement (i : Instr) : Prop := encode i &&& ~~~i.opcode.usedMask = 0#32

theorem nop : Statement .nop := by unfold Statement; decide

theorem binde (kind wc n repr : Nat) : Statement (.binde kind wc n repr) := by
  refine within_mask _ _ fun k h => ?_
  simp only [Instr.opcode, Opcode.usedMask, Opcode.fieldsUsed, List.foldl, BitVec.getLsbD_or, Bool.or_eq_false_iff] at h
  simp only [encode, Instr.opcode, Opcode.code, Instr.fieldBits, BitVec.getLsbD_or, put_within, h, Bool.or_false]
  exact op_within k _ (by decide) h.1.1.1.1

theorem bindd (kind wc n : Nat) (rf ru : Bool) : Statement (.bindd kind wc n rf ru) := by
  refine within_mask _ _ fun k h => ?_
  simp only [Instr.opcode, Opcode.usedMask, Opcode.fieldsUsed, List.foldl, BitVec.getLsbD_or, Bool.or_eq_false_iff] at h
  simp only [encode, Instr.opcode, Opcode.code, Instr.fieldBits, Field.putFlag, BitVec.getLsbD_or, put_within, h, Bool.or_false]
  exact op_within k _ (by decide) h.1.1.1.1.1

theorem exec : Statement .exec := by unfold Statement; decide

theorem getb (p : Nat) : Statement (.getb p) := by
  refine within_mask _ _ fun k h => ?_
  simp only [Instr.opcode, Opcode.usedMask, Opcode.fieldsUsed, List.foldl, BitVec.getLsbD_or, Bool.or_eq_false_iff] at h
  simp only [encode, Instr.opcode, Opcode.code, Instr.fieldBits, BitVec.getLsbD_or, put_within, h, Bool.or_false]
  exact op_within k _ (by decide) h.1

theorem setb (p : Nat) (v : Bool) : Statement (.setb p v) := by
  refine within_mask _ _ fun k h => ?_
  simp only [Instr.opcode, Opcode.usedMask, Opcode.fieldsUsed, List.foldl, BitVec.getLsbD_or, Bool.or_eq_false_iff] at h
  simp only [encode, Instr.opcode, Opcode.code, Instr.fieldBits, Field.putFlag, BitVec.getLsbD_or, put_within, h, Bool.or_false]
  exact op_within k _ (by decide) h.1.1

theorem graye (wc : Nat) : Statement (.graye wc) := by
  refine within_mask _ _ fun k h => ?_
  simp only [Instr.opcode, Opcode.usedMask, Opcode.fieldsUsed, List.foldl, BitVec.getLsbD_or, Bool.or_eq_false_iff] at h
  simp only [encode, Instr.opcode, Opcode.code, Instr.fieldBits, BitVec.getLsbD_or, put_within, h, Bool.or_false]
  exact op_within k _ (by decide) h.1

theorem grayd (wc : Nat) : Statement (.grayd wc) := by
  refine within_mask _ _ fun k h => ?_
  simp only [Instr.opcode, Opcode.usedMask, Opcode.fieldsUsed, List.foldl, BitVec.getLsbD_or, Bool.or_eq_false_iff] at h
  simp only [encode, Instr.opcode, Opcode.code, Instr.fieldBits, BitVec.getLsbD_or, put_within, h, Bool.or_false]
  exact op_within k _ (by decide) h.1

theorem ordp (wc repr : Nat) : Statement (.ordp wc repr) := by
  refine within_mask _ _ fun k h => ?_
  simp only [Instr.opcode, Opcode.usedMask, Opcode.fieldsUsed, List.foldl, BitVec.getLsbD_or, Bool.or_eq_false_iff] at h
  simp only [encode, Instr.opcode, Opcode.code, Instr.fieldBits, BitVec.getLsbD_or, put_within, h, Bool.or_false]
  exact op_within k _ (by decide) h.1.1

theorem ordd (wc repr : Nat) : Statement (.ordd wc repr) := by
  refine within_mask _ _ fun k h => ?_
  simp only [Instr.opcode, Opcode.usedMask, Opcode.fieldsUsed, List.foldl, BitVec.getLsbD_or, Bool.or_eq_false_iff] at h
  simp only [encode, Instr.opcode, Opcode.code, Instr.fieldBits, BitVec.getLsbD_or, put_within, h, Bool.or_false]
  exact op_within k _ (by decide) h.1.1

theorem ilv (wc n : Nat) : Statement (.ilv wc n) := by
  refine within_mask _ _ fun k h => ?_
  simp only [Instr.opcode, Opcode.usedMask, Opcode.fieldsUsed, List.foldl, BitVec.getLsbD_or, Bool.or_eq_false_iff] at h
  simp only [encode, Instr.opcode, Opcode.code, Instr.fieldBits, BitVec.getLsbD_or, put_within, h, Bool.or_false]
  exact op_within k _ (by decide) h.1.1

theorem dil (wc n : Nat) : Statement (.dil wc n) := by
  refine within_mask _ _ fun k h => ?_
  simp only [Instr.opcode, Opcode.usedMask, Opcode.fieldsUsed, List.foldl, BitVec.getLsbD_or, Bool.or_eq_false_iff] at h
  simp only [encode, Instr.opcode, Opcode.code, Instr.fieldBits, BitVec.getLsbD_or, put_within, h, Bool.or_false]
  exact op_within k _ (by decide) h.1.1

theorem rotf (wc n : Nat) : Statement (.rotf wc n) := by
  refine within_mask _ _ fun k h => ?_
  simp only [Instr.opcode, Opcode.usedMask, Opcode.fieldsUsed, List.foldl, BitVec.getLsbD_or, Bool.or_eq_false_iff] at h
  simp only [encode, Instr.opcode, Opcode.code, Instr.fieldBits, BitVec.getLsbD_or, put_within, h, Bool.or_false]
  exact op_within k _ (by decide) h.1.1

theorem roti (wc n : Nat) : Statement (.roti wc n) := by
  refine within_mask _ _ fun k h => ?_
  simp only [Instr.opcode, Opcode.usedMask, Opcode.fieldsUsed, List.foldl, BitVec.getLsbD_or, Bool.or_eq_false_iff] at h
  simp only [encode, Instr.opcode, Opcode.code, Instr.fieldBits, BitVec.getLsbD_or, put_within, h, Bool.or_false]
  exact op_within k _ (by decide) h.1.1

end UsedBits

end Sys2Proof.Laws
end

