-- ==== Sys2Proof/Laws/Platform.lean ====
section
/-! SUPPORT. What delivering an access and stepping one copy do to the list of copies. -/

namespace Sys2Proof.Machine

@[simp] theorem Platform.withCopies_copies (p : Platform) (cs : List BlockCopy)
    (h : cs.map BlockCopy.basePage = p.copies.map BlockCopy.basePage) : (p.withCopies cs h).copies = cs := rfl

/-- Every copy looks at the access. -/
@[simp] theorem Platform.deliver_copies (p : Platform) (a : PhysAccess) :
    (p.deliver a).copies = p.copies.map (BlockCopy.receive a) := rfl

/-- A copy whose window the access lies in takes it after all it received before. -/
theorem BlockCopy.receive_of_covers {a : PhysAccess} {c : BlockCopy} (h : c.covers a = true) :
    c.receive a = { c with block := { c.block with pending := c.block.pending ++ [a.event] } } := if_pos h

/-- Any other copy is left alone. -/
theorem BlockCopy.receive_of_not_covers {a : PhysAccess} {c : BlockCopy} (h : c.covers a = false) :
    c.receive a = c := if_neg (by rw [h]; decide)

/-- A step of copy `k` is the step of its own block, put back in its place (R247). -/
theorem Platform.stepCopy_next {p q : Platform} {k : Fin p.copies.length} (h : p.stepCopy k = .next q) :
    ∃ b, step p.copies[k].block = .next b ∧ q.copies = p.copies.set k { p.copies[k] with block := b } := by
  unfold Platform.stepCopy at h
  cases hb : step p.copies[k].block with
  | next b => rw [hb] at h; exact ⟨b, rfl, by rw [← Host.Outcome.next.inj h]; rfl⟩
  | fault f => rw [hb] at h; cases h
  | refused r => rw [hb] at h; cases h

end Sys2Proof.Machine
end

