-- ==== Sys2Proof/Laws/Window.lean ====
section
/-! SUPPORT. The register window bit by bit, and what serving one access does. -/

namespace Sys2Proof.Machine

/-- A word laid out field by field, as a number: the fields above count by the width of those below. -/
theorem append_toNat {v w : Nat} (x : BitVec v) (y : BitVec w) : (x ++ y).toNat = x.toNat * 2 ^ w + y.toNat := by
  rw [BitVec.toNat_append, ← Nat.shiftLeft_add_eq_or_of_lt y.isLt, Nat.shiftLeft_eq]

/-- The mask of an access's size, bit by bit. -/
theorem sizeMask_getLsbD (size k : Nat) : (sizeMask size).getLsbD k = (decide (k < 64) && decide (k < 8 * size)) := by
  simp only [sizeMask, BitVec.getLsbD_ofNat, Nat.testBit_two_pow_sub_one]

/-- A whole register passes the 64-bit mask. -/
@[simp] theorem and_sizeMask_eight (v : Reg64) : v &&& sizeMask 8 = v := by
  apply BitVec.eq_of_getLsbD_eq
  intro k hk
  simp [sizeMask_getLsbD, hk]

/-- A merged register, bit by bit (R67). -/
theorem merge_getLsbD (old mask data : Reg64) (k : Nat) :
    (merge old mask data).getLsbD k = if mask.getLsbD k then data.getLsbD k else old.getLsbD k := by
  by_cases hk : k < 64
  · cases h : mask.getLsbD k <;>
      simp only [merge, BitVec.getLsbD_or, BitVec.getLsbD_and, BitVec.getLsbD_not, hk, h] <;> simp
  · simp only [BitVec.getLsbD_of_ge _ _ (Nat.not_lt.mp hk), ite_self]

/-- A write under the 64-bit mask replaces the whole register (R63). -/
@[simp] theorem merge_sizeMask_eight (old data : Reg64) : merge old (sizeMask 8) data = data := by
  apply BitVec.eq_of_getLsbD_eq
  intro k hk
  rw [merge_getLsbD, sizeMask_getLsbD]
  simp [hk]

/-- The bits an access covers: `size` bytes from its own shift on (R66). -/
theorem accessMask_getLsbD (off : BitVec 12) (size k : Nat) :
    (accessMask off size).getLsbD k =
      (decide (k < 64) && decide (bitShift off ≤ k) && decide (k - bitShift off < 8 * size)) := by
  rw [accessMask, BitVec.getLsbD_shiftLeft, sizeMask_getLsbD]
  by_cases h : k < 64
  · have : k - bitShift off < 64 := by omega
    by_cases h2 : bitShift off ≤ k
    · simp [h, this, h2]
    · simp [h, Nat.lt_of_not_le h2, h2]
  · simp [h]

/-- NULLM as the host reads it, bit by bit (R36). -/
theorem NullMask.word_getLsbD (m : NullMask) (k : Nat) :
    m.word.getLsbD k = if k < 16 then m.ln.getLsbD k else (decide (k = 16) && m.tn) := by
  simp only [NullMask.word, BitVec.getLsbD_append]
  by_cases h : k < 16
  · simp [h]
  · by_cases h2 : k = 16
    · subst h2; simp
    · simp [h, h2, show ¬ k - 16 < 1 by omega]

/-- Writing back what was read changes nothing (R36). -/
@[simp] theorem NullMask.ofWord_word (m : NullMask) : NullMask.ofWord m.word = m := by
  obtain ⟨ln, tn⟩ := m
  simp only [NullMask.ofWord, NullMask.mk.injEq]
  constructor
  · apply BitVec.eq_of_getLsbD_eq
    intro k hk
    rw [BitVec.getLsbD_setWidth, NullMask.word_getLsbD]
    simp [hk]
  · rw [NullMask.word_getLsbD]; simp

/-- The map of the window finds every register at its own offset (R62). -/
theorem WinReg.ofOffset?_offset (r : WinReg) : WinReg.ofOffset? r.offset = some r := by
  cases r with
  | lane j => revert j; decide
  | _ => decide

/-- Every register's offset is a multiple of 8 within the window, so its bits are read from bit 0 on (R62, R66). -/
theorem WinReg.bitShift_offset (r : WinReg) : bitShift r.offset = 0 := by
  cases r with
  | lane j => revert j; decide
  | _ => decide

/-- One step serves what was sent first (R71). -/
theorem step_cons {s : State} {e : BusEvent} {rest : List BusEvent} (h : s.pending = e :: rest) :
    step s = serve e { s with pending := rest } := by
  simp only [step, h]

/-- A permitted read answers the value and changes nothing else (R69). -/
theorem serve_read {off : BitVec 12} {size : Nat} (s : State) (h : permitted off size = true) :
    serve (.read off size) s = .next (s.answer (.value (s.windowRead off size))) := by
  simp [serve, h]

/-- A permitted write that issues no command (R63, R64). -/
theorem serve_write {off : BitVec 12} {size : Nat} (s : State) (data : Reg64) (h : permitted off size = true)
    (hc : issuesCommand off = false) :
    serve (.write off size data) s = .next ((s.windowWrite off size data).answer .done) := by
  simp [serve, h, hc]

/-- A permitted write to CMD issues its low 32 bits (R65). -/
theorem serve_command {size : Nat} (s : State) (data : Reg64) (h : permitted 0x008#12 size = true) :
    serve (.write 0x008#12 size data) s = issue (data.setWidth 32) (s.answer .done) := by
  simp [serve, h, issuesCommand]

/-- Any other access is refused (R68). -/
theorem serve_refused {off : BitVec 12} {size : Nat} (s : State) (data : Reg64) (h : permitted off size = false) :
    serve (.read off size) s = .next (s.answer .refusal) ∧
    serve (.write off size data) s = .next (s.answer .refusal) := by
  simp [serve, h]

end Sys2Proof.Machine
end

