-- ==== Sys2Proof/Tests/Slice0.lean ====
section
/-! SUPPORT. The model's own tests, each on one step, with expected results from the spec's vectors (95_test_vectors.md)
or worked out by hand from the rule named; and one witness for each statement that has hypotheses. -/

open Sys2Proof Sys2Proof.Machine Sys2Proof.Safety

namespace Sys2Proof.Tests

/-- A block after reset with CW and the first lanes written. -/
def block (cw : CodeWord) (lanes : List Reg64) : State :=
  { State.reset with cw := cw, lanes := Vector.ofFn fun j => lanes.getD j.val 0 }

/-- The state a command word leaves, issued as a write to CMD; none if the step stops. -/
def after (s : State) (w : CmdWord) : Option State :=
  match step (s.withFetchWord 32 w.toNat) with
  | .next t => some t
  | .fault _ => none
  | .refused _ => none

/-- The state and the answer one access leaves. -/
def served (s : State) (e : BusEvent) : Option State :=
  match step { s with pending := [e] } with
  | .next t => some t
  | .fault _ => none
  | .refused _ => none

/-- STATUS as the host reads it. -/
def stat (t : State) : Nat := t.status.word.toNat

/-- What the host is answered: the bus error and the data. -/
def answered (t : State) : Option (Bool × Nat) := t.reply.map fun r => (r.error, r.data.toNat)

/-- A block bound as `BINDE HILBERT, W8, N3, UINT` binds it, with lanes 1, 2, 3 (95_test_vectors.md S1). -/
def bound3 : State :=
  { block 0x55 [1, 2, 3] with
    desc := { kind := .hilbert, dir := .encode, wc := .w8, n := 3, repr := .uint, cc := .c32, rf := false, ru := false }
    status := { err := 0, cause := 0, bound := true, onull := false, bitv := false, errs := false } }

/-- A block bound as `BINDD HILBERT, C32, N3` binds it, with CW = 22 (95_test_vectors.md S3). -/
def decode3 : State :=
  { bound3 with
    cw := 22
    lanes := Vector.replicate 16 9
    desc := { kind := .hilbert, dir := .decode, wc := .w8, n := 3, repr := .sint, cc := .c32, rf := false, ru := false } }

/-- The block with one access sent to it. -/
def sent (e : BusEvent) : State := { bound3 with pending := [e] }

/-! ### Well-formedness: an ill-formed term for each check -/

theorem test_wellFormed_refuses_wide_kind :
    (Instr.binde 4 0 1 0).wellFormed = false ∧ (Instr.bindd 4 0 1 false false).wellFormed = false := by decide

theorem test_wellFormed_refuses_wide_wc :
    (Instr.binde 0 8 1 0).wellFormed = false ∧ (Instr.bindd 0 8 1 false false).wellFormed = false ∧
    (Instr.graye 8).wellFormed = false ∧ (Instr.grayd 8).wellFormed = false ∧
    (Instr.ordp 8 0).wellFormed = false ∧ (Instr.ordd 8 0).wellFormed = false ∧
    (Instr.ilv 8 1).wellFormed = false ∧ (Instr.dil 8 1).wellFormed = false ∧
    (Instr.rotf 8 1).wellFormed = false ∧ (Instr.roti 8 1).wellFormed = false := by decide

theorem test_wellFormed_refuses_wide_n :
    (Instr.binde 0 0 32 0).wellFormed = false ∧ (Instr.bindd 0 0 32 false false).wellFormed = false ∧
    (Instr.ilv 0 32).wellFormed = false ∧ (Instr.dil 0 32).wellFormed = false ∧
    (Instr.rotf 0 32).wellFormed = false ∧ (Instr.roti 0 32).wellFormed = false := by decide

theorem test_wellFormed_refuses_wide_repr :
    (Instr.binde 0 0 1 4).wellFormed = false ∧ (Instr.ordp 0 4).wellFormed = false ∧
    (Instr.ordd 0 4).wellFormed = false := by decide

theorem test_wellFormed_refuses_wide_p :
    (Instr.getb 128).wellFormed = false ∧ (Instr.setb 128 true).wellFormed = false := by decide

/-! ### Decoding: every constructor's word, written out from R80 and R90 bit by bit -/

/-- `NOP`: OP 00000. -/
theorem test_decode_nop : decodeWord 0b00000#32 = .ok .nop := by decide

/-- `BINDE HILBERT, W32, N3, FLOAT` = 0x00010D01: REPR 10, N 00011, WC 010, KIND 00, OP 00001. -/
theorem test_decode_binde : decodeWord 0b10_00011_010_00_00001#32 = .ok (.binde 0 2 3 2) := by decide

/-- `BINDD MORTON, C128, N16, RF, RU`: RU 1, RF 1, REPR 00, N 10000, WC 100, KIND 01, OP 00010. -/
theorem test_decode_bindd : decodeWord 0b1_1_00_10000_100_01_00010#32 = .ok (.bindd 1 4 16 true true) := by decide

/-- RF is bit 17 and RU bit 18 (R86). -/
theorem test_decode_bindd_one_flag :
    decodeWord 0x00020E02#32 = .ok (.bindd 0 4 3 true false) ∧
    decodeWord 0x00040D02#32 = .ok (.bindd 0 2 3 false true) := by decide

theorem test_decode_exec : decodeWord 0b00011#32 = .ok .exec := by decide

/-- `GETB 127`: P 1111111 in bits 25 to 19, OP 01000. -/
theorem test_decode_getb : decodeWord 0b1111111_00_00_00000_000_00_01000#32 = .ok (.getb 127) := by decide

/-- `SETB 5, 1`: V 1 in bit 26, P 0000101, OP 01001. -/
theorem test_decode_setb : decodeWord 0b1_0000101_00_00_00000_000_00_01001#32 = .ok (.setb 5 true) := by decide

/-- `GRAYE W128`: WC 100, OP 01010. -/
theorem test_decode_graye : decodeWord 0b100_00_01010#32 = .ok (.graye 4) := by decide

/-- `GRAYD W16`: WC 001, OP 01011. -/
theorem test_decode_grayd : decodeWord 0b001_00_01011#32 = .ok (.grayd 1) := by decide

/-- `ORDP W32, FLOAT`: REPR 10, WC 010, OP 01100. -/
theorem test_decode_ordp : decodeWord 0b10_00000_010_00_01100#32 = .ok (.ordp 2 2) := by decide

/-- `ORDD W64, SINT`: REPR 01, WC 011, OP 01101. -/
theorem test_decode_ordd : decodeWord 0b01_00000_011_00_01101#32 = .ok (.ordd 3 1) := by decide

/-- `ILV W8, N3`: N 00011, WC 000, OP 10000. -/
theorem test_decode_ilv : decodeWord 0b00011_000_00_10000#32 = .ok (.ilv 0 3) := by decide

/-- `DIL W16, N8`: N 01000, WC 001, OP 10001. -/
theorem test_decode_dil : decodeWord 0b01000_001_00_10001#32 = .ok (.dil 1 8) := by decide

/-- `ROTF W64, N2`: N 00010, WC 011, OP 10010. -/
theorem test_decode_rotf : decodeWord 0b00010_011_00_10010#32 = .ok (.rotf 3 2) := by decide

/-- `ROTI W8, N16`: N 10000, WC 000, OP 10011. -/
theorem test_decode_roti : decodeWord 0b10000_000_00_10011#32 = .ok (.roti 0 16) := by decide

/-- R91, R92 (95_test_vectors.md 2.6): a set unused bit, a reserved OP, and the reserved OP first where both hold. -/
theorem test_decode_refuses :
    decodeWord 0x00000020#32 = .error .unusedBits ∧ decodeWord 0x80000003#32 = .error .unusedBits ∧
    decodeWord 0x00000004#32 = .error .reservedOpcode ∧ decodeWord 0xFFFFFFFF#32 = .error .reservedOpcode := by decide

/-- The mask R91 makes of the fields is the mask of spec/opcode_table.json, and OP is its match. -/
theorem test_usedMask_is_the_tables :
    [Opcode.nop, .binde, .bindd, .exec, .getb, .setb, .graye, .grayd, .ordp, .ordd, .ilv, .dil, .rotf, .roti].map
      (fun o => (~~~o.usedMask ||| 0x1F#32, BitVec.ofNat 32 o.code)) =
    [Opcode.nop, .binde, .bindd, .exec, .getb, .setb, .graye, .grayd, .ordp, .ordd, .ilv, .dil, .rotf, .roti].map
      maskAndMatch := by decide

/-- Bytes arrive lowest first, and the rest is given back (R66). -/
theorem test_decode_bytes :
    decode [0x01, 0x0C, 0x00, 0x00, 0xAA] = .ok (.binde 0 0 3 0, [0xAA]) ∧
    decode [0x01, 0x0C, 0x00] = .error .truncated := by decide

/-- The table's numbering: bit 0 first. -/
theorem test_decodeTableWord :
    decodeTableWord 32 0x00000C01 = some (.binde 0 0 3 0) ∧ decodeTableWord 32 0x00000004 = none := by decide

/-! ### The commands, one step each -/

/-- R192: NOP clears ERR and CAUSE and leaves ERRS (95_test_vectors.md 2.6). -/
theorem test_nop : (after (State.reset.raise .exec .unbound) 0x00000000#32).map stat = some 0x10000 := by decide +kernel

/-- S1: DESC = 0x40C0, STATUS = 0x100. -/
theorem test_binde : (after (block 0 []) 0x00000C01#32).map (fun t => (t.desc.word.toNat, stat t)) =
    some (0x40C0, 0x100) := by decide +kernel

/-- R233: a failed bind releases a bound descriptor; `BINDE HILBERT, W64, N3, UINT`. -/
theorem test_binde_fails : (after bound3 0x00000D81#32).map (fun t => (t.desc.word.toNat, stat t, t.ecmd.toNat)) =
    some (0, 0x10041, 0x00000D81) := by decide +kernel

/-- S8: DESC = 0x190D4. -/
theorem test_bindd : (after (block 0 []) 0x00020E02#32).map (fun t => (t.desc.word.toNat, stat t)) =
    some (0x190D4, 0x100) := by decide +kernel

/-- 95_test_vectors.md 1.4: a code-word width code of 5 is an InternalError. -/
theorem test_bindd_fails : (after (block 0 []) 0x00000682#32).map (fun t => (t.desc.word.toNat, stat t)) =
    some (0, 0x10013) := by decide +kernel

/-- S1: the code of 1, 2, 3 is 22. -/
theorem test_exec_encode : (after bound3 0x00000003#32).map (fun t => (t.cw.toNat, stat t)) =
    some (22, 0x100) := by decide +kernel

/-- S3: the lanes of 22 are 1, 2, 3, and LANE3 is kept. -/
theorem test_exec_decode : (after decode3 0x00000003#32).map (fun t => (t.lanes.toList.take 4).map BitVec.toNat) =
    some [1, 2, 3, 9] := by decide +kernel

/-- 95_test_vectors.md 2.1: bit 127 read; bit 0 of the same word is 0. -/
theorem test_getb :
    (after (block (BitVec.twoPow 128 127) []) 0x03F80008#32).map stat = some 0x400 ∧
    (after (block (BitVec.twoPow 128 127) []) 0x00000008#32).map stat = some 0 := by decide +kernel

/-- 95_test_vectors.md 2.1: `SETB 127, 1`, and `SETB 0, 0` on all ones. -/
theorem test_setb :
    (after (block 0 []) 0x07F80009#32).map (fun t => t.cw.toNat) = some (2 ^ 127) ∧
    (after (block (BitVec.allOnes 128) []) 0x00000009#32).map (fun t => t.cw.toNat) = some (2 ^ 128 - 2) := by
  decide +kernel

/-- 95_test_vectors.md 2.1: bit 8 dropped; the full width. -/
theorem test_graye :
    (after (block 0x1FF []) 0x0000000A#32).map (fun t => t.cw.toNat) = some 0x80 ∧
    (after (block (BitVec.allOnes 128) []) 0x0000020A#32).map (fun t => t.cw.toNat) = some (2 ^ 127) := by
  decide +kernel

/-- 95_test_vectors.md 2.1: bit 8 dropped first; a width code of 5 is a DomainError. -/
theorem test_grayd :
    (after (block 0x1FF []) 0x0000000B#32).map (fun t => t.cw.toNat) = some 0xAA ∧
    (after (block 1 []) 0x0000028B#32).map (fun t => (t.cw.toNat, stat t, t.ecmd.toNat)) =
      some (1, 0x10021, 0x28B) := by decide +kernel

/-- 95_test_vectors.md 2.1: −0.0 as binary32, and −1 as an 8-bit integer. -/
theorem test_ordp :
    (after (block 0x80000000 []) 0x0001010C#32).map (fun t => t.cw.toNat) = some 0x7FFFFFFF ∧
    (after (block 0xFF []) 0x0000800C#32).map (fun t => t.cw.toNat) = some 0x7F := by decide +kernel

/-- 95_test_vectors.md 2.1: the inverse of those two. -/
theorem test_ordd :
    (after (block 0x7FFFFFFF []) 0x0001010D#32).map (fun t => t.cw.toNat) = some 0x80000000 ∧
    (after (block 0x7F []) 0x0000800D#32).map (fun t => t.cw.toNat) = some 0xFF := by decide +kernel

/-- 95_test_vectors.md 2.2: lane bits above 8 are ignored; lane 0 is the top bit of a digit. -/
theorem test_ilv :
    (after (block 0 [0x1FF, 0x100, 0x102]) 0x00000C10#32).map (fun t => t.cw.toNat) = some 0x92492C ∧
    (after (block 0 [1, 0]) 0x00000810#32).map (fun t => t.cw.toNat) = some 2 := by decide +kernel

/-- 95_test_vectors.md 2.2: CW bits at and above 24 are ignored and LANE3 is kept. -/
theorem test_dil :
    (after (block (BitVec.twoPow 128 100 + 29) [9, 9, 9, 0x55]) 0x00000C11#32).map
      (fun t => (t.lanes.toList.take 4).map BitVec.toNat) = some [1, 2, 3, 0x55] := by decide +kernel

/-- 95_test_vectors.md 2.3: three lanes, a reflect and exchanges at every level. -/
theorem test_rotf :
    (after (block 0 [0x22, 0x91, 0xD8]) 0x00000C12#32).map (fun t => (t.lanes.toList.take 3).map BitVec.toNat) =
      some [0x3B, 0xA2, 0xC7] := by decide +kernel

/-- 95_test_vectors.md 2.3: the same three lanes back. -/
theorem test_roti :
    (after (block 0 [0x3B, 0xA2, 0xC7]) 0x00000C13#32).map (fun t => (t.lanes.toList.take 3).map BitVec.toNat) =
      some [0x22, 0x91, 0xD8] := by decide +kernel

/-! ### The window -/

/-- 95_test_vectors.md 2.7: ID, a reserved offset and CMD as read. -/
theorem test_window_reads :
    (served bound3 (.read 0x000 8)).map answered = some (some (false, 0x00100001444E494C)) ∧
    (served bound3 (.read 0xFF8 8)).map answered = some (some (false, 0)) ∧
    (served bound3 (.read 0x008 8)).map answered = some (some (false, 0)) ∧
    (served bound3 (.read 0x018 4)).map answered = some (some (false, 0x40C0)) := by decide +kernel

/-- R67: a 32-bit write at 0x034 replaces CW[63:32] alone. -/
theorem test_window_half_write :
    (served (block 0x1122334455667788 []) (.write 0x034 4 0xDEADBEEF)).map (fun t => t.cw.toNat) =
      some 0xDEADBEEF55667788 := by decide +kernel

/-- R68: a misaligned or wrong-sized access is refused, returns 0 data and issues no command. -/
theorem test_window_refuses :
    (served bound3 (.read 0x044 8)).map answered = some (some (true, 0)) ∧
    (served bound3 (.write 0x008 2 0x4)).map (fun t => (answered t, stat t)) = some (some (true, 0), 0x100) := by
  decide +kernel

/-- R35: writing 0 to bit 16 keeps ERRS, writing 1 clears it. -/
theorem test_errs_w1c :
    (served (bound3.raise .nop .unusedBits) (.write 0x010 8 0)).map stat = some 0x10124 ∧
    (served (bound3.raise .nop .unusedBits) (.write 0x010 8 0x10000)).map stat = some 0x124 := by decide +kernel

/-- R36: bits of NULLM above 16 are ignored. -/
theorem test_nullm_write :
    (served bound3 (.write 0x020 8 0xFFFFFFFFFFFFFFFF)).map (fun t => t.nullm.word.toNat) = some 0x1FFFF := by
  decide +kernel

/-- R65: a write at 0x00C issues nothing; R97: CLRERR is a write of 0x10000 to STATUS. -/
theorem test_bus :
    (served bound3 (.write 0x00C 4 0x4)).map stat = some 0x100 ∧
    HostStmt.events .clrerr = [.write 0x010 8 0x10000] := by decide +kernel

/-- R95: the worked lines assemble to their words (R98). -/
theorem test_assembler :
    (AsmLine.binde .hilbert .b32 3 .float).assemble = 0x00010D01#32 ∧
    (AsmLine.bindd .hilbert .b128 3 true false).assemble = 0x00020E02#32 ∧
    (AsmLine.setb 5 true).assemble = 0x04280009#32 := by decide

/-! ### Witnesses: the hypotheses of each statement hold together somewhere, clause by clause, at a boundary -/

theorem witness_DecodeGivesBackTheEncoded :
    (Instr.binde 3 7 31 3).wellFormed = true ∧ (Instr.bindd 3 7 31 true true).wellFormed = true ∧
    (Instr.setb 127 true).wellFormed = true ∧ (Instr.ordp 7 3).wellFormed = true ∧
    (Instr.roti 7 31).wellFormed = true := by decide

theorem witness_CommandWordsAreBuiltFromTheirFields : 3 < 4 ∧ 7 < 8 ∧ 31 < 32 ∧ 127 < 128 := by decide

theorem witness_EncodeGivesBackTheDecoded : decodeWord 0x0001FFE1#32 = .ok (.binde 3 7 31 3) := by decide

/-- One word of each opcode with its lowest or highest unused bit set. -/
theorem witness_UnusedBitsMakeAWordIllegal :
    ∀ ow ∈ [(Opcode.nop, 0x00000020#32), (.binde, 0x00020001#32), (.bindd, 0x00008002#32), (.exec, 0x80000003#32),
      (.getb, 0x04000008#32), (.setb, 0x00000029#32), (.graye, 0x0000040A#32), (.grayd, 0x0000002B#32),
      (.ordp, 0x0000040C#32), (.ordd, 0x8000000D#32), (.ilv, 0x00008010#32), (.dil, 0x00000031#32),
      (.rotf, 0x00008012#32), (.roti, 0x00000053#32)],
      ow.2.toNat % 32 = ow.1.code ∧ ow.2 &&& (maskAndMatch ow.1).1 ≠ (maskAndMatch ow.1).2 ∧
      (sent (.write 0x008#12 4 (ow.2.setWidth 64))).pending = [.write 0x008#12 4 (ow.2.setWidth 64)] := by
  decide +kernel

theorem witness_ReservedOpcodesAreIllegal :
    (∀ w ∈ [0x00000004#32, 0x0000000F#32, 0xFFFFFFF4#32, 0xFFFFFFFF#32],
      w.toNat % 32 ∈ [0x04, 0x05, 0x06, 0x07, 0x0E, 0x0F, 0x14, 0x15, 0x16, 0x17, 0x18, 0x19, 0x1A, 0x1B, 0x1C, 0x1D,
        0x1E, 0x1F]) ∧
    (∀ w : CmdWord, (sent (.write 0x008#12 4 (w.setWidth 64))).pending = [.write 0x008#12 4 (w.setWidth 64)]) := by
  constructor
  · simp
  · exact fun _ => rfl

theorem witness_ResetSignalForgetsTheStateBefore : (sent .reset).pending = .reset :: [] := rfl

/-- The bound and the unbound half of the invariant, each met; a full-width descriptor is one. -/
theorem witness_StepKeepsInv : BlockInv (sent .reset) ∧ BlockInv State.reset := by
  refine ⟨⟨fun _ => ⟨by decide, by decide, by decide, by decide, by decide, by decide, by decide, by decide⟩, ?_, by decide⟩,
    ⟨fun h => absurd h (by decide), fun _ => rfl, by decide⟩⟩
  exact fun h => absurd h (by decide)

/-- The state that the model stops on: bound, with a lane count of 17. -/
theorem witness_ExecStopsOnlyOnABrokenDescriptor :
    let s := { bound3 with desc := { bound3.desc with n := 17 } }
    s.status.bound = true ∧ s.desc.n.toNat > 16 ∧ after s 0x00000003#32 = none := by decide +kernel

theorem witness_CmdWriteRunsTheDecodedCommand :
    (sent (.write 0x008#12 8 0xFFFFFFFF00000000)).pending = [.write 0x008#12 8 0xFFFFFFFF00000000] ∧
    decodeWord ((0xFFFFFFFF00000000 : Reg64).setWidth 32) = .ok .nop ∧
    decodeWord ((0x1F : Reg64).setWidth 32) = .error .reservedOpcode ∧
    decodeWord ((0x20 : Reg64).setWidth 32) = .error .unusedBits ∧
    (sent (.write 0x00C#12 4 3)).pending = [.write 0x00C#12 4 3] ∧
    (sent (.read 0x008#12 4)).pending = [.read 0x008#12 4] ∧
    (sent (.read 0x008#12 8)).pending = [.read 0x008#12 8] ∧
    (sent (.read 0x00C#12 4)).pending = [.read 0x00C#12 4] := by decide +kernel

theorem witness_WaitsWhenNothingIsSent : State.reset.pending = [] := rfl

/-- A next state, and the stop of log entry 6. -/
theorem witness_AccessesAreServedInOrder :
    (∃ t, step (sent (.read 0x000#12 8)) = .next t ∧ (sent (.read 0x000#12 8)).pending = [.read 0x000#12 8]) ∧
    (∃ f, step { bound3 with desc := { bound3.desc with n := 17 }, pending := [.write 0x008#12 4 3] } = .fault f) :=
  ⟨⟨_, rfl, rfl⟩, _, rfl⟩

/-- An address off by one, a 64-bit access at a multiple of 4 alone, and the sizes 1, 2 and 16; then a permitted one. -/
theorem witness_OtherAccessesAreRefusedWithoutEffect :
    (∀ a ∈ [(0x041#12, 4), (0x044#12, 8), (0x040#12, 1), (0x040#12, 2), (0x040#12, 16), (0xFFF#12, 8)],
      ¬((a.2 = 4 ∧ a.1.toNat % 4 = 0) ∨ (a.2 = 8 ∧ a.1.toNat % 8 = 0))) ∧
    (∃ t, step (sent (.write 0xFFC#12 4 1)) = .next t ∧ (0xFFC#12).toNat % 4 = 0) :=
  ⟨by decide, _, rfl, by decide⟩

theorem witness_ReadsHaveNoSideEffect : (sent (.read 0xFFF#12 8)).pending = [.read 0xFFF#12 8] := rfl

/-- Each register of the statement, the first and the last lane among them. -/
theorem witness_DataRegistersReadAndWrite :
    (∀ e ∈ [BusEvent.read 0x030#12 8, .read 0x038#12 8, .read 0x020#12 8, .read 0x040#12 8, .read 0x0B8#12 8,
        .write 0x030#12 8 7, .write 0x038#12 8 7, .write 0x020#12 8 7, .write 0x0B8#12 8 7], (sent e).pending = [e]) ∧
    BitVec.ofNat 12 (0x040 + 8 * 15) = 0x0B8#12 := ⟨fun _ _ => rfl, by decide⟩

/-- Both halves of CW_LO, CW_HI, NULLM, the first and the last lane. -/
theorem witness_HalfWritesLeaveTheOtherHalf :
    (∀ off ∈ [0x030#12, 0x034#12, 0x038#12, 0x03C#12, 0x020#12, 0x024#12, 0x040#12, 0x044#12, 0x0B8#12, 0x0BC#12],
      (sent (.write off 4 7)).pending = [.write off 4 7]) ∧
    BitVec.ofNat 12 (0x030 + 8 * 1 + 4 * 1) = 0x03C#12 ∧ BitVec.ofNat 12 (0x040 + 8 * 15 + 4 * 1) = 0x0BC#12 :=
  ⟨fun _ _ => rfl, by decide, by decide⟩

/-- The bytes at the ends of each range: ID, DESC, ECMD, STATUS, and the first and last reserved offsets. -/
theorem witness_ReadOnlyAndReservedLocationsKeepTheState :
    (∀ off ∈ [0x000#12, 0x004#12, 0x018#12, 0x01C#12, 0x028#12, 0x02C#12, 0x0C0#12, 0xFFC#12],
      off.toNat % 4 = 0 ∧
      (off.toNat / 8 = 0 ∨ off.toNat / 8 = 3 ∨ off.toNat / 8 = 5 ∨ 0x0C0 ≤ off.toNat)) ∧
    (0x014#12).toNat / 8 = 2 ∧ (0x0C0#12).toNat / 8 ≠ 2 ∧ (0xFF8#12).toNat % 8 = 0 ∧
    (sent (.write 0x014#12 4 5)).pending = [.write 0x014#12 4 5] ∧
    (sent (.read 0xFF8#12 8)).pending = [.read 0xFF8#12 8] :=
  ⟨by simp, by decide, by decide, by decide, rfl, rfl⟩

/-- A command that raises; a clear by the host and by reset. -/
theorem witness_ErrsIsStickyUntilClearedOrReset :
    (∃ t, exec (.graye 5) bound3 = .next t ∧ t.status.err ≠ 0) ∧
    (∃ t, step { (bound3.raise .nop .unusedBits) with pending := [.write 0x010#12 4 0x10000] } = .next t ∧
      (bound3.raise .nop .unusedBits).status.errs = true ∧ t.status.errs = false) ∧
    (∃ t, step { (bound3.raise .nop .unusedBits) with pending := [.reset] } = .next t ∧ t.status.errs = false) ∧
    (∀ i, decodeWord 0xFFFFFFFF#32 ≠ .ok i) ∧ (sent (.write 0x014#12 4 1)).pending = [.write 0x014#12 4 1] := by
  refine ⟨⟨_, rfl, by decide⟩, ⟨_, rfl, by decide +kernel, by decide +kernel⟩, ⟨_, rfl, by decide⟩, fun i h => ?_, rfl⟩
  rw [show decodeWord 0xFFFFFFFF#32 = .error .reservedOpcode by decide] at h
  cases h

/-- The last 64-bit register and the last 32-bit half of the window, and a read of each. -/
theorem witness_WindowIsLittleEndian :
    (0xFF8#12).toNat % 8 = 0 ∧ (0x000#12).toNat % 8 = 0 ∧ (0xFFC#12).toNat % 4 = 0 ∧ 32 ≤ 32 ∧
    (sent (.read 0xFFC#12 4)).pending = [.read 0xFFC#12 4] ∧ (sent (.read 0xFF8#12 8)).pending = [.read 0xFF8#12 8] :=
  ⟨by decide, by decide, by decide, by decide, rfl, rfl⟩

theorem witness_RegisterWordsHaveTheStatedLayout :
    (∀ off ∈ [0x010#12, 0x018#12, 0x020#12, 0x028#12], (sent (.read off 8)).pending = [.read off 8]) ∧
    31 < 32 ∧ 32 ≤ 32 := ⟨fun _ _ => rfl, by decide, by decide⟩

theorem witness_IdentityIsConstant :
    (sent (.read 0x000#12 8)).pending = [.read 0x000#12 8] ∧ (sent (.write 0x004#12 4 9)).pending = [.write 0x004#12 4 9] ∧
    (sent (.write 0x000#12 4 9)).pending = [.write 0x000#12 4 9] ∧
    (sent (.write 0x000#12 8 9)).pending = [.write 0x000#12 8 9] := by decide

theorem witness_NopOnlyClearsTheError : (0x80000000#32).toNat % 32 = 0 ∧ 0x80000000#32 ≠ 0 := by decide

theorem witness_SetbWritesOneBit : (0 < 128 ∧ 127 < 128) := by decide

theorem witness_GrayeEncodesTheLowBits : WidthCode 0 8 ∧ WidthCode 4 128 ∧ 5 > 4 := by
  simp [WidthCode, LaneWidthCode]

theorem witness_GraydDecodesTheLowBits : WidthCode 3 64 ∧ WidthCode 4 128 ∧ 7 > 4 := by
  simp [WidthCode, LaneWidthCode]

/-- UINT and SINT at the ends of the widths, FLOAT at both of its own; each check at its first failing value. -/
theorem witness_OrdpPromotesTheLowBits :
    (LaneWidthCode 0 8 ∧ 0 ≤ 2 ∧ (0 = 2 → 8 = 32 ∨ 8 = 64)) ∧ (LaneWidthCode 3 64 ∧ 1 ≤ 2) ∧
    (LaneWidthCode 2 32 ∧ (2 = 2 → 32 = 32 ∨ 32 = 64)) ∧ 4 > 3 ∧ (3 ≤ 3 ∧ 3 ≥ 3) ∧ 1 ≤ 1 := by
  simp [LaneWidthCode]

theorem witness_OrddDemotesTheLowBits :
    (LaneWidthCode 1 16 ∧ 1 ≤ 2 ∧ (1 = 2 → 16 = 32 ∨ 16 = 64)) ∧
    (LaneWidthCode 3 64 ∧ (2 = 2 → 64 = 32 ∨ 64 = 64)) ∧ 4 > 3 ∧ (0 ≤ 3 ∧ 3 ≥ 3) ∧ 0 ≤ 1 := by
  simp [LaneWidthCode]

/-- The least and the greatest admissible operands, and each lane check at its first failing value. -/
theorem witness_IlvInterleavesTheLanes :
    LaneOperands 0 1 8 ∧ LaneOperands 0 16 8 ∧ LaneOperands 3 2 64 ∧ 4 > 3 ∧ (0 < 1 ∧ 17 > 16) ∧
    (LaneWidthCode 1 16 ∧ 9 ≤ 16 ∧ 9 * 16 > 128) := by
  simp [LaneOperands, LaneWidthCode]

theorem witness_DilDeinterleavesTheCode :
    LaneOperands 1 8 16 ∧ LaneOperands 2 4 32 ∧ (LaneWidthCode 3 64 ∧ 3 ≤ 16 ∧ 3 * 64 > 128) := by
  simp [LaneOperands, LaneWidthCode]

/-- The least and the greatest shape, and a shape whose N·W is a width of GRAYD. -/
theorem witness_RotfRotatesTheLanes :
    (∃ sh : LaneShape, LaneWidthCode 0 sh.w.bits ∧ sh.n = 16 ∧ WidthCode 4 (sh.n * sh.w.bits)) ∧
    (∃ sh : LaneShape, LaneWidthCode 0 sh.w.bits ∧ sh.n = 1 ∧ WidthCode 0 (sh.n * sh.w.bits)) ∧
    (∃ sh : LaneShape, LaneWidthCode 3 sh.w.bits ∧ sh.n = 2 ∧ WidthCode 4 (sh.n * sh.w.bits)) := by
  refine ⟨⟨⟨.w8, 16, by decide, by decide, by decide⟩, ?_⟩, ⟨⟨.w8, 1, by decide, by decide, by decide⟩, ?_⟩,
    ⟨⟨.w64, 2, by decide, by decide, by decide⟩, ?_⟩⟩ <;> simp [LaneWidthCode, WidthCode, LaneWidth.bits]

theorem witness_RotiRotatesTheLanesBack : ∃ sh : LaneShape, LaneWidthCode 2 sh.w.bits ∧ sh.n = 4 :=
  ⟨⟨.w32, 4, by decide, by decide, by decide⟩, by simp [LaneWidthCode, LaneWidth.bits], rfl⟩

/-- Table(W, N) at the ends of a row. -/
theorem tableIs_128 : TableIs 8 16 128 ∧ TableIs 8 9 128 ∧ TableIs 64 2 128 ∧ TableIs 32 4 128 ∧ TableIs 8 1 8 :=
  ⟨⟨9, 16, by decide⟩, ⟨9, 16, by decide⟩, ⟨2, 2, by decide⟩, ⟨3, 4, by decide⟩, ⟨1, 1, by decide⟩⟩

/-- No W has Table(W, 2) = 8. -/
theorem no_lane_width_for_8_2 : ∀ W, ¬TableIs W 2 8 := by
  rintro W ⟨lo, hi, h, h1, h2⟩
  simp only [tableRows, List.mem_cons, Prod.mk.injEq, List.not_mem_nil, or_false] at h
  omega

/-- A bind that succeeds at the least and the greatest operands, and each check at its first failing value. -/
theorem witness_BindeBindsAnEncodeDescriptor :
    (0 ≤ 1 ∧ LaneOperands 0 1 8 ∧ TableIs 8 1 8 ∧ WidthCode 0 8) ∧
    (1 ≤ 1 ∧ LaneOperands 0 16 8 ∧ TableIs 8 16 128 ∧ WidthCode 4 128) ∧
    (LaneOperands 3 2 64 ∧ (2 = 2 → 64 = 32 ∨ 64 = 64) ∧ TableIs 64 2 128) ∧
    2 > 1 ∧ 4 > 3 ∧ (0 < 1 ∧ 17 > 16) ∧ (LaneWidthCode 0 8 ∧ 16 * 8 ≤ 128) ∧ (LaneWidthCode 1 16 ∧ 9 * 16 > 128) ∧
    (LaneOperands 0 1 8 ∧ 3 ≥ 3) ∧ (LaneOperands 1 8 16 ∧ (16 = 8 ∨ 16 = 16)) := by
  simp [LaneOperands, LaneWidthCode, WidthCode, tableIs_128]

theorem witness_BinddBindsADecodeDescriptor :
    (WidthCode 4 128 ∧ TableIs 8 16 128 ∧ LaneWidthCode 0 8 ∧ (false = true → 8 = 32 ∨ 8 = 64)) ∧
    (WidthCode 4 128 ∧ TableIs 32 4 128 ∧ LaneWidthCode 2 32 ∧ (true = true → 32 = 32 ∨ 32 = 64)) ∧
    (WidthCode 0 8 ∧ TableIs 8 1 8) ∧ 2 > 1 ∧ 5 > 4 ∧ (0 < 1 ∧ 17 > 16) ∧ (WidthCode 0 8 ∧ ∀ W, ¬TableIs W 2 8) ∧
    (WidthCode 4 128 ∧ TableIs 8 9 128 ∧ true = true ∧ (8 = 8 ∨ 8 = 16)) := by
  simp [LaneWidthCode, WidthCode, tableIs_128]
  exact no_lane_width_for_8_2

/-- The shape of `bound3` and `decode3`. -/
def shape3 : LaneShape := ⟨.w8, 3, by decide, by decide, by decide⟩

/-- Unbound; then, bound, the null path, a null lane N−1 on an encode, the null bit N alone, and a decode. -/
theorem witness_ExecRunsTheBoundCodec :
    State.reset.status.bound = false ∧
    (bound3.status.bound = true ∧ bound3.desc.wc = shape3.w ∧ bound3.desc.n.toNat = shape3.n) ∧
    ({ bound3 with nullm := ⟨0, true⟩ }.nullm.tn = true) ∧
    (bound3.desc.dir = .encode ∧ (∃ j, j < 3 ∧ (4#16).getLsbD j = true)) ∧
    (bound3.nullm.tn = false ∧ ∀ j, j < 3 → (8#16).getLsbD j = false) ∧
    (decode3.status.bound = true ∧ decode3.desc.dir = .decode ∧ decode3.nullm.tn = false) :=
  ⟨rfl, by decide, rfl, ⟨rfl, 2, by decide⟩, by decide, by decide⟩

/-- The bits at and above N may differ on an encode, all of them on a decode. -/
theorem witness_NullBitsOutsideTheTupleAreIgnored :
    (∃ t, exec .exec bound3 = .next t ∧ ∀ j, j < bound3.desc.n.toNat → (8#16).getLsbD j = bound3.nullm.ln.getLsbD j) ∧
    (∃ t, exec .exec decode3 = .next t ∧ decode3.desc.dir = .decode) :=
  ⟨⟨_, rfl, by decide⟩, ⟨_, rfl, rfl⟩⟩

/-- LANE3 and the bits of LANE0 from 8 on may differ on an encode; CW bit 24 on a decode. -/
theorem witness_ExecIgnoresBitsOutsideTheTuple :
    (∃ t, exec .exec bound3 = .next t ∧ bound3.desc.dir = .encode ∧
      ∀ j ∈ List.finRange 16, ∀ i ∈ List.range 8, j.val < 3 →
        ((block 0 [0x101, 2, 3, 7]).lanes[j.val]).getLsbD i = (bound3.lanes[j.val]).getLsbD i) ∧
    (∃ t, exec .exec decode3 = .next t ∧ decode3.desc.dir = .decode ∧
      ∀ k ∈ List.range 24, (0x1000016#128).getLsbD k = decode3.cw.getLsbD k) :=
  ⟨⟨_, rfl, rfl, by decide +kernel⟩, ⟨_, rfl, rfl, by decide +kernel⟩⟩

theorem witness_RepresentationPlaysNoPartInExec :
    (∃ t, exec .exec bound3 = .next t) ∧ (∃ t, exec .exec decode3 = .next t) := ⟨⟨_, rfl⟩, ⟨_, rfl⟩⟩

/-- A primitive, a bind and EXEC that raise, and a word that is no command. -/
theorem witness_FailingCommandsChangeOnlyTheErrorRegisters :
    (∃ t, exec (.ilv 4 1) bound3 = .next t ∧ t.status.err ≠ 0) ∧
    (∃ t, exec (.binde 2 0 1 0) bound3 = .next t ∧ t.status.err ≠ 0) ∧
    (∃ t, exec .exec State.reset = .next t ∧ t.status.err ≠ 0) ∧ (∀ i, decodeWord 0x00000020#32 ≠ .ok i) := by
  refine ⟨⟨_, rfl, by decide⟩, ⟨_, rfl, by decide⟩, ⟨_, rfl, by decide⟩, fun i h => ?_⟩
  rw [show decodeWord 0x00000020#32 = .error .unusedBits by decide] at h
  cases h

theorem witness_SuccessLeavesTheStickyErrorRecord :
    ∃ t, exec .nop (bound3.raise .nop .unusedBits) = .next t ∧ t.status.err = 0 := ⟨_, rfl, by decide +kernel⟩

theorem witness_CommandsRaiseOnlyTheirListedErrors :
    (∃ t, exec (.getb 127) bound3 = .next t) ∧ (∃ t, exec (.bindd 0 7 31 true true) bound3 = .next t) :=
  ⟨⟨_, rfl⟩, ⟨_, rfl⟩⟩

theorem witness_OnullAndBitvHaveOneWriterEach :
    (∃ t, exec .exec bound3 = .next t) ∧ (∃ t, exec (.setb 0 true) bound3 = .next t) ∧
    (∃ t, exec (.getb 0) bound3 = .next t) ∧
    (∃ t, step (sent (.write 0x010#12 8 0x600)) = .next t ∧ 0x010#12 ≠ 0x008#12) ∧
    (∀ i, decodeWord 0x80000003#32 ≠ .ok i) := by
  refine ⟨⟨_, rfl⟩, ⟨_, rfl⟩, ⟨_, rfl⟩, ⟨_, rfl, by decide⟩, fun i h => ?_⟩
  rw [show decodeWord 0x80000003#32 = .error .unusedBits by decide] at h
  cases h

/-- A change of DESC by reset and by a bind. -/
theorem witness_OnlyBindsWriteTheDescriptor :
    (∃ t, step (sent .reset) = .next t ∧ t.desc ≠ (sent .reset).desc) ∧
    (∃ t, step (sent (.write 0x008#12 4 0x00000D81)) = .next t ∧ t.status.bound ≠ bound3.status.bound) ∧
    (∃ t, exec (.grayd 0) bound3 = .next t) :=
  ⟨⟨_, rfl, by decide⟩, ⟨_, rfl, by decide +kernel⟩, ⟨_, rfl⟩⟩

theorem witness_WidthTableIsTheSmallestStandardWidth :
    table .w8 16 = some .c128 ∧ table .w8 17 = none ∧ table .w64 1 = some .c64 ∧ 1 * LaneWidth.w64.bits ≤ CodeWidth.c64.bits := by
  decide

/-- The last pair of indices of the narrowest shape. -/
theorem witness_HilbertAdjacentIndicesAreNeighbours :
    ∃ sh : LaneShape, sh.n = 1 ∧ 254 + 1 < 2 ^ (sh.W * sh.n) :=
  ⟨⟨.w8, 1, by decide, by decide, by decide⟩, rfl, by decide⟩

theorem witness_PromotionIsMonotone : 0 < 1 ∧ 0 < 64 := by decide

/-- The least and the greatest operands of a round trip, and a float one. -/
theorem witness_CommandsRoundTrip :
    (LaneOperands 0 16 8 ∧ TableIs 8 16 128 ∧ WidthCode 4 128 ∧ (false = true → 8 = 32 ∨ 8 = 64)) ∧
    (LaneOperands 2 4 32 ∧ (2 = 2 → 32 = 32 ∨ 32 = 64) ∧ TableIs 32 4 128 ∧ WidthCode 4 128) ∧
    (LaneOperands 0 1 8 ∧ TableIs 8 1 8 ∧ WidthCode 0 8) ∧
    State.reset.nullm.tn = false ∧ (∀ j, j < 16 → State.reset.nullm.ln.getLsbD j = false) ∧
    (∀ k, 1 * 8 ≤ k → State.reset.cw.getLsbD k = false) := by
  simp [LaneOperands, LaneWidthCode, WidthCode, tableIs_128, State.reset]

theorem witness_PseudoInstructionsRunTheirCommands :
    State.reset.pending = [] ∧ (WidthOperand.raw 7).value < 8 ∧ (ReprOperand.raw 3).value < 4 ∧
    (∃ t u, exec (.binde 0 7 31 3) (Safety.served State.reset []) = .next t ∧ exec .exec t = .next u) ∧
    (∃ t u, exec (.bindd 1 4 16 false true) (Safety.served State.reset []) = .next t ∧ exec .exec t = .next u) :=
  ⟨rfl, by decide, by decide, ⟨_, _, rfl, rfl⟩, ⟨_, _, rfl, rfl⟩⟩

/-- Two copies: one at the last window of the address space, one at the first. -/
def twoCopies : Platform where
  copies := [{ basePage := 0xFFFFFFFFFFFFF, block := State.reset }, { basePage := 0, block := bound3 }]
  instances_pos := by decide
  bases_nodup := by decide

/-- The first and last byte of the last window, and the byte below it; a step of the second copy. -/
theorem witness_CopiesShareNothing :
    (∃ c, twoCopies.copies[0]? = some c ∧
      (c.base.toNat ≤ (0xFFFFFFFFFFFFF000 : Reg64).toNat ∧ (0xFFFFFFFFFFFFFFFF : Reg64).toNat < c.base.toNat + 0x1000) ∧
      ¬(c.base.toNat ≤ (0xFFFFFFFFFFFFEFFF : Reg64).toNat)) ∧
    (∃ b, step (twoCopies.copies[1]'(by decide)).block = .next b) ∧
    (∃ q, twoCopies.stepCopy ⟨1, by decide⟩ = .next q) :=
  ⟨⟨_, rfl, by decide, by decide⟩, ⟨_, rfl⟩, _, rfl⟩

/-- A write to CMD of the last window reaches the first copy alone. -/
theorem test_deliver :
    (twoCopies.deliver (.write 0xFFFFFFFFFFFFF008 4 3)).copies.map (fun c => c.block.pending) =
      [[.write 0x008 4 3], []] := by decide

end Sys2Proof.Tests
end

section
/-! The statements of 00_scope.md. -/

namespace Sys2Proof.Machine

/-- With nothing sent there is nothing to serve (R11; R272, R283 and log entry 2); `step_cons` is the other case. -/
theorem step_nil {s : State} (h : s.pending = []) : step s = .next s := by
  simp only [step, h]

end Sys2Proof.Machine

namespace Sys2Proof.Proofs

/-- Settles O13: the case of the step in which nothing is pending. -/
theorem waitsWhenNothingIsSent : Obligations.WaitsWhenNothingIsSent :=
  fun _ h => Machine.step_nil h

end Sys2Proof.Proofs
end

section
/-! The statements of 10_state.md. First what one access does to a block: the cases of serving it and of a step,
said once, and the registers a host write leaves alone. -/

namespace Sys2Proof.Machine

/-- What serving one thing the host sent can do, when it ends in a next state: one constructor per case of R64 to R70
and R270. -/
inductive Serves : BusEvent → State → State → Prop
  | reset (s : State) : Serves .reset s { State.reset with pending := s.pending }
  | answered {e : BusEvent} (s : State) (r : BusReply) : e ≠ .reset → Serves e s (s.answer r)
  | written {off : BitVec 12} {size : Nat} (s : State) (data : Reg64) : permitted off size = true → off ≠ 0x008#12 →
      Serves (.write off size data) s ((s.windowWrite off size data).answer .done)
  | command {size : Nat} {data : Reg64} {i : Instr} {s t : State} : decodeWord (data.setWidth 32) = .ok i →
      exec i (s.answer .done) = .next t → Serves (.write 0x008#12 size data) s t
  | illegal {size : Nat} {data : Reg64} {x : Illegal} (s : State) : decodeWord (data.setWidth 32) = .error x →
      Serves (.write 0x008#12 size data) s ((s.answer .done).raiseIllegal (data.setWidth 32) x)

/-- Serving ends in one of the cases of `Serves`. -/
theorem serve_cases {e : BusEvent} {s t : State} (h : serve e s = .next t) : Serves e s t := by
  cases e with
  | reset => obtain rfl := Host.Outcome.next.inj h; exact .reset s
  | read off size =>
    cases hp : permitted off size with
    | true => rw [serve_read s hp] at h; obtain rfl := Host.Outcome.next.inj h; exact .answered s _ (by simp)
    | false => rw [(serve_refused s 0 hp).1] at h; obtain rfl := Host.Outcome.next.inj h; exact .answered s _ (by simp)
  | write off size data =>
    cases hp : permitted off size with
    | false =>
      rw [(serve_refused s data hp).2] at h; obtain rfl := Host.Outcome.next.inj h; exact .answered s _ (by simp)
    | true =>
      by_cases hc : off = 0x008#12
      · subst hc
        rw [serve_command s data hp, issue] at h
        cases hd : decodeWord (data.setWidth 32) with
        | ok i => rw [hd] at h; exact .command hd h
        | error x => rw [hd] at h; obtain rfl := Host.Outcome.next.inj h; exact .illegal s hd
      · rw [serve_write s data hp (by simp [issuesCommand, hc])] at h
        obtain rfl := Host.Outcome.next.inj h
        exact .written s data hp hc

/-- What a step can do: wait, or serve what was sent first (R71). -/
theorem step_cases {s t : State} (h : step s = .next t) :
    t = s ∨ ∃ e rest, s.pending = e :: rest ∧ Serves e { s with pending := rest } t := by
  cases hp : s.pending with
  | nil => rw [step_nil hp] at h; exact .inl (Host.Outcome.next.inj h).symm
  | cons e rest => rw [step_cons hp] at h; exact .inr ⟨e, rest, rfl, serve_cases h⟩

/-- Serving stops the block only where the command it issues does. -/
theorem serve_answers (e : BusEvent) (s : State) (h : ∀ i, ∃ t, exec i (s.answer .done) = .next t) :
    ∃ t, serve e s = .next t := by
  cases e with
  | reset => exact ⟨_, rfl⟩
  | read off size =>
    cases hp : permitted off size with
    | true => exact ⟨_, serve_read s hp⟩
    | false => exact ⟨_, (serve_refused s 0 hp).1⟩
  | write off size data =>
    cases hp : permitted off size with
    | false => exact ⟨_, (serve_refused s data hp).2⟩
    | true =>
      by_cases hc : off = 0x008#12
      · subst hc
        rw [serve_command s data hp, issue]
        cases decodeWord (data.setWidth 32) with
        | ok i => exact h i
        | error x => exact ⟨_, rfl⟩
      · exact ⟨_, serve_write s data hp (by simp [issuesCommand, hc])⟩

/-- A word that is no command, written to CMD, raises IllegalCommand in that step (R91, R92). -/
theorem step_illegal {w : CmdWord} {s : State} {rest : List BusEvent} (hw : ∀ i, decodeWord w ≠ .ok i)
    (hp : s.pending = .write 0x008#12 4 (w.setWidth 64) :: rest) :
    ∃ x, step s = .next ((State.answer { s with pending := rest } .done).raiseIllegal w x) := by
  have hback : (w.setWidth 64).setWidth 32 = w := by simp
  rw [step_cons hp, serve_command _ _ (by decide), hback, issue]
  cases hd : decodeWord w with
  | ok i => exact absurd hd (hw i)
  | error x => exact ⟨x, rfl⟩

/-- The offsets of permitted accesses: multiples of 4 for 32 bits, of 8 for 64 (R68). -/
theorem permitted_iff {off : BitVec 12} {size : Nat} :
    permitted off size = true ↔ (size = 4 ∧ off.toNat % 4 = 0) ∨ (size = 8 ∧ off.toNat % 8 = 0) := by
  simp [permitted]

/-- A 64-bit read at a register's own offset is answered with the register (R62, R63). -/
theorem step_read_register {s : State} {rest : List BusEvent} (r : WinReg)
    (hp : s.pending = .read r.offset 8 :: rest) :
    step s = .next { s with pending := rest, reply := some { error := false, data := s.readReg r } } := by
  have hperm : permitted r.offset 8 = true := by
    have h := r.bitShift_offset
    rw [bitShift] at h
    exact permitted_iff.mpr (.inr ⟨rfl, by omega⟩)
  have hval : State.windowRead { s with pending := rest } r.offset 8 = s.readReg r := by
    rw [State.windowRead, State.readAt, WinReg.ofOffset?_offset, WinReg.bitShift_offset, and_sizeMask_eight]
    cases r <;> simp [State.readReg]
  rw [step_cons hp, serve_read _ hperm, hval]
  rfl

/-- The two 32-bit accesses and the one 64-bit access that reach STATUS: only those at 0x010 reach bit 16. -/
theorem status_offsets {off : BitVec 12} {size : Nat} (h : permitted off size = true)
    (hr : WinReg.ofOffset? off = some .status) : off = 0x010#12 ∨ off = 0x014#12 := by
  have hdiv : off.toNat / 8 = 2 := by
    unfold WinReg.ofOffset? at hr
    split at hr <;> simp_all
  have hperm := permitted_iff.mp h
  have hcases : off.toNat = 16 ∨ off.toNat = 20 := by omega
  exact hcases.imp BitVec.eq_of_toNat_eq BitVec.eq_of_toNat_eq

/-- Writing 0 to bit 16 leaves ERRS (R35). -/
@[simp] theorem Status.clearErrs_false (x : Status) : x.clearErrs false = x := by
  simp [Status.clearErrs]

/-- R35 and log entry 5: of all host writes, only one at 0x010 with bit 16 set changes STATUS, and it clears ERRS. -/
theorem State.windowWrite_status (s : State) {off : BitVec 12} {size : Nat} (data : Reg64)
    (h : permitted off size = true) :
    (s.windowWrite off size data).status = s.status.clearErrs (decide (off = 0x010#12) && data.getLsbD 16) := by
  have hcov : (accessMask 0x010#12 size).getLsbD 16 = true := by
    have hpos : 16 < 8 * size := by have := permitted_iff.mp h; omega
    simp [accessMask_getLsbD, bitShift, hpos, -BitVec.getLsbD_eq_getElem]
  have hoff : WinReg.ofOffset? off ≠ some .status → off ≠ 0x010#12 := by rintro hne rfl; exact hne (by decide)
  unfold State.windowWrite
  cases hr : WinReg.ofOffset? off with
  | none => simp [hoff (by simp [hr])]
  | some r =>
    cases r
    case status =>
      rcases status_offsets h hr with rfl | rfl
      · simp only [State.writeReg, State.mapStatus_status, BitVec.getLsbD_and, hcov]
        simp [bitShift]
      · simp [State.writeReg, bitShift]
    all_goals simp [State.writeReg, hoff (by simp [hr])]

/-- A host write leaves DESC alone (R64). -/
theorem State.windowWrite_desc (s : State) (off : BitVec 12) (size : Nat) (data : Reg64) :
    (s.windowWrite off size data).desc = s.desc := by
  unfold State.windowWrite
  split
  · rename_i r _
    cases r <;> rfl
  · rfl

end Sys2Proof.Machine
end

section
/-! What a raise and a bind do to DESC, BOUND and ONULL, and the descriptors a bind makes (R26 to R29). -/

namespace Sys2Proof.Machine

open Sys2Proof.Safety

/-- A raise outside a bind leaves DESC and BOUND (R233). -/
theorem State.raise_binding (s : State) {i : Instr} (e : CmdError) (he : i.opcode ≠ .binde) (hd : i.opcode ≠ .bindd) :
    (s.raise i e).desc = s.desc ∧ (s.raise i e).status.bound = s.status.bound := by
  cases i
  case binde => exact absurd rfl he
  case bindd => exact absurd rfl hd
  case exec => cases e <;> exact ⟨rfl, rfl⟩
  all_goals exact ⟨rfl, rfl⟩

/-- A bind that raises a DomainError or an InternalError releases the descriptor (R233). -/
theorem State.raise_releases (s : State) {i : Instr} {e : CmdError} (hi : i.opcode = .binde ∨ i.opcode = .bindd)
    (he : e.cls = .domain ∨ e.cls = .internal) :
    (s.raise i e).desc = Desc.zero ∧ (s.raise i e).status.bound = false := by
  cases i
  case binde => rcases he with he | he <;> simp [State.raise, State.onError, State.releaseDesc, he]
  case bindd => rcases he with he | he <;> simp [State.raise, State.onError, State.releaseDesc, he]
  all_goals simp [Instr.opcode] at hi

/-- A raise outside EXEC leaves ONULL (R233). -/
theorem State.raise_onull (s : State) {i : Instr} (e : CmdError) (hi : i ≠ .exec) :
    (s.raise i e).status.onull = s.status.onull := by
  cases i
  case exec => exact absurd rfl hi
  case binde => cases e <;> rfl
  case bindd => cases e <;> rfl
  all_goals rfl

/-- The lane checks raise only DomainErrors (R231). -/
theorem laneShape_error_cls {wc n : Nat} {e : CmdError} (h : laneShape wc n = .error e) : e.cls = .domain := by
  rcases (laneShape_error_iff wc n e).mp h with ⟨-, rfl⟩ | ⟨-, -, -, rfl⟩ | ⟨-, -, -, -, rfl⟩ <;> rfl

/-- BINDE raises only DomainErrors (R231). -/
theorem encodeDesc_error_cls {kind wc n repr : Nat} {e : CmdError} (h : encodeDesc kind wc n repr = .error e) :
    e.cls = .domain := by
  unfold encodeDesc at h
  split at h
  · cases h; rfl
  split at h
  next e' hsh => cases h; exact laneShape_error_cls hsh
  split at h
  · cases h; rfl
  split at h
  · cases h; rfl
  split at h
  · cases h; rfl
  · cases h

/-- BINDD raises only DomainErrors and InternalErrors (R231). -/
theorem decodeDesc_error_cls {kind wc n : Nat} {rf ru : Bool} {e : CmdError}
    (h : decodeDesc kind wc n rf ru = .error e) : e.cls = .domain ∨ e.cls = .internal := by
  unfold decodeDesc at h
  split at h
  · cases h; exact .inl rfl
  split at h
  · cases h; exact .inr rfl
  split at h
  · cases h; exact .inl rfl
  split at h
  · cases h; exact .inl rfl
  split at h
  · cases h; exact .inl rfl
  · cases h

/-- Every row of the width table keeps N·W within the tuple (R190). -/
theorem table_fits {w : LaneWidth} {n : Nat} {c : CodeWidth} (h : table w n = some c) :
    n * w.bits ≤ Config.maxTupleBits := by
  have hrows : ∀ r ∈ widthRows, r.hi * r.w.bits ≤ Config.maxTupleBits := by decide
  rw [table, Option.map_eq_some_iff] at h
  obtain ⟨r, hfind, -⟩ := h
  have hrow := List.find?_some hfind
  obtain ⟨rfl, -, hhi⟩ := of_decide_eq_true hrow
  exact (Nat.mul_le_mul_right _ hhi).trans (hrows r (List.mem_of_find?_eq_some hfind))

/-- The width DecW gives is in the table's row (R191). -/
theorem table_of_decW {c : CodeWidth} {n : Nat} {w : LaneWidth} (h : decW c n = some w) : table w n = some c := by
  have hrow := List.find?_some (show List.find? _ _ = some w from h)
  exact of_decide_eq_true hrow

/-- The lane widths with a float type (R8, R195). -/
theorem LaneWidth.isFloat_iff (w : LaneWidth) : w.isFloat = true ↔ w = .w32 ∨ w = .w64 := by
  cases w <;> decide

/-- A decode bind names FLOAT exactly when RF = 1 (R194). -/
theorem decodeRepr_eq_float (rf ru : Bool) : decodeRepr rf ru = .float ↔ rf = true := by
  revert rf ru; decide

/-- A lane count of at most 16 fits DESC.N (R26). -/
theorem toNat_ofNat_laneCount {n : Nat} (h : n ≤ 16) : (BitVec.ofNat 5 n).toNat = n := by
  rw [BitVec.toNat_ofNat]; omega

/-- The descriptor BINDE makes is one R29 allows. -/
theorem encodeDesc_descBound {kind wc n repr : Nat} {d : Desc} (h : encodeDesc kind wc n repr = .ok d) :
    DescBound d := by
  unfold encodeDesc at h
  split at h
  · cases h
  split at h
  · cases h
  next sh hsh =>
  split at h
  · cases h
  next r _ =>
  split at h
  · cases h
  next hfit =>
  split at h
  · cases h
  next c htab =>
  obtain rfl : n = sh.n := ((laneShape_ok_iff wc n sh).mp hsh).2
  obtain rfl := Except.ok.inj h
  have hn : (BitVec.ofNat 5 sh.n).toNat = sh.n := toNat_ofNat_laneCount sh.le_max
  refine ⟨by simpa only [hn] using sh.one_le, by simpa only [hn] using sh.le_max, by simpa only [hn] using sh.fits,
    by simpa only [hn] using htab, ?_, fun _ => ⟨rfl, rfl⟩, nofun, nofun⟩
  rintro rfl
  exact sh.w.isFloat_iff.mp (eq_true_of_ne_false hfit)

/-- The descriptor BINDD makes is one R29 allows. -/
theorem decodeDesc_descBound {kind wc n : Nat} {rf ru : Bool} {d : Desc} (h : decodeDesc kind wc n rf ru = .ok d) :
    DescBound d := by
  unfold decodeDesc at h
  split at h
  · cases h
  split at h
  · cases h
  next c _ =>
  split at h
  · cases h
  next hrange =>
  obtain ⟨hlo, hhi⟩ : 1 ≤ n ∧ n ≤ 16 := by rw [Config.maxLanes] at hrange; omega
  split at h
  · cases h
  next w hdec =>
  split at h
  · cases h
  next hfit =>
  obtain rfl := Except.ok.inj h
  have htab := table_of_decW hdec
  have hn : (BitVec.ofNat 5 n).toNat = n := toNat_ofNat_laneCount hhi
  refine ⟨by simpa only [hn] using hlo, by simpa only [hn] using hhi, by simpa only [hn] using table_fits htab,
    by simpa only [hn] using htab, ?_, nofun, fun _ => ?_, fun _ => ?_⟩
  · intro hfloat
    have hrf := (decodeRepr_eq_float rf ru).mp hfloat
    simp only [hrf, true_and, Bool.not_eq_false] at hfit
    exact w.isFloat_iff.mp hfit
  · rintro rfl; rfl
  · rintro rfl; rfl

/-- What a bind answers: it raises and releases the descriptor, or it binds one that R29 allows (R193, R194, R233). -/
theorem bind_cases {i : Instr} {s t : State} (hi : i.opcode = .binde ∨ i.opcode = .bindd) (h : exec i s = .next t) :
    (∃ e, t = s.raise i e ∧ t.desc = Desc.zero ∧ t.status.bound = false) ∨
    (∃ d, t = (s.bindTo d true).complete ∧ DescBound d) := by
  cases i
  case binde kind wc n repr =>
    rcases finish_map_cases (h : execBinde kind wc n repr s = _) with ⟨e, he, rfl⟩ | ⟨d, hd, rfl⟩
    · exact .inl ⟨e, rfl, s.raise_releases hi (.inl (encodeDesc_error_cls he))⟩
    · exact .inr ⟨d, rfl, encodeDesc_descBound hd⟩
  case bindd kind wc n rf ru =>
    rcases finish_map_cases (h : execBindd kind wc n rf ru s = _) with ⟨e, he, rfl⟩ | ⟨d, hd, rfl⟩
    · exact .inl ⟨e, rfl, s.raise_releases hi (decodeDesc_error_cls he)⟩
    · exact .inr ⟨d, rfl, decodeDesc_descBound hd⟩
  all_goals simp [Instr.opcode] at hi

/-- A command that is no bind leaves DESC and BOUND (R28, R32). -/
theorem exec_keeps_binding {i : Instr} {s t : State} (he : i.opcode ≠ .binde) (hd : i.opcode ≠ .bindd)
    (h : exec i s = .next t) : t.desc = s.desc ∧ t.status.bound = s.status.bound := by
  rcases exec_cases h with ⟨e, rfl⟩ | ⟨u, rfl, hu⟩
  · exact s.raise_binding e he hd
  · exact hu.binding he hd

end Sys2Proof.Machine
end

section
/-! The block invariant (R29, R231): every command and every access keeps it. -/

namespace Sys2Proof.Safety

open Sys2Proof.Machine

/-- The invariant's part on (ERR, CAUSE) (R231). -/
theorem BlockInv.legal_pair {s : State} (h : BlockInv s) :
    (s.status.err.toNat, s.status.cause.toNat) ∈ legalErrorPairs := by
  obtain ⟨-, -, hpair⟩ := h
  exact hpair

/-- A state with the same binding as one that meets the invariant, and a legal error pair, meets it. -/
theorem BlockInv.of_same_binding {s t : State} (h : BlockInv s) (hd : t.desc = s.desc)
    (hb : t.status.bound = s.status.bound)
    (hp : (t.status.err.toNat, t.status.cause.toNat) ∈ legalErrorPairs) : BlockInv t := by
  obtain ⟨hbound, hunbound, -⟩ := h
  exact ⟨by rwa [hd, hb], by rwa [hd, hb], hp⟩

/-- The invariant speaks of DESC, BOUND, ERR and CAUSE alone, so an answer on the bus keeps it. -/
theorem BlockInv.answer {s : State} (h : BlockInv s) (r : BusReply) : BlockInv (s.answer r) := h

/-- The reset state is unbound, with DESC = 0 and no error (R42). -/
theorem blockInv_reset : BlockInv State.reset := ⟨nofun, fun _ => rfl, by decide⟩

/-- The bound descriptor of a state that meets the invariant has a lane shape (R29). -/
theorem BlockInv.shape_ne_none {s : State} (h : BlockInv s) (hb : s.status.bound = true) : s.desc.shape? ≠ none := by
  obtain ⟨hbound, -, -⟩ := h
  obtain ⟨hlo, hhi, hfits, -⟩ := hbound hb
  have hsome := (s.desc.shape?_eq_some ⟨s.desc.wc, s.desc.n.toNat, hlo, hhi, hfits⟩).mpr ⟨rfl, rfl⟩
  exact Option.ne_none_iff_exists'.mpr ⟨_, hsome⟩

end Sys2Proof.Safety

namespace Sys2Proof.Machine

open Sys2Proof.Safety

/-- The pair an error records is a row of R231. -/
theorem CmdError.pair_legal (e : CmdError) : (e.cls.code.toNat, e.cause.toNat) ∈ legalErrorPairs := by
  cases e <;> decide

/-- A command leaves a pair of R231, or (0, 0) (R232, R236). -/
theorem exec_legal_pair {i : Instr} {s t : State} (h : exec i s = .next t) :
    (t.status.err.toNat, t.status.cause.toNat) ∈ legalErrorPairs := by
  rcases exec_cases h with ⟨e, rfl⟩ | ⟨u, rfl, -⟩
  · obtain ⟨herr, hcause, -, -⟩ := s.raise_records i e
    rw [herr, hcause]
    exact e.pair_legal
  · exact List.mem_cons_self

/-- Every command that answers keeps the invariant: a bind makes it anew, any other leaves the binding. -/
theorem exec_keeps_blockInv {i : Instr} {s t : State} (hs : BlockInv s) (h : exec i s = .next t) : BlockInv t := by
  by_cases hi : i.opcode = .binde ∨ i.opcode = .bindd
  · rcases bind_cases hi h with ⟨e, -, hdesc, hbound⟩ | ⟨d, rfl, hd⟩
    · exact ⟨by simp [hbound], fun _ => hdesc, exec_legal_pair h⟩
    · exact ⟨fun _ => hd, nofun, exec_legal_pair h⟩
  · obtain ⟨he, hd⟩ := not_or.mp hi
    obtain ⟨hdesc, hbound⟩ := exec_keeps_binding he hd h
    exact hs.of_same_binding hdesc hbound (exec_legal_pair h)

/-- A state that meets the invariant is none in which EXEC stops (R29, log entry 6). -/
theorem exec_answers_of_blockInv (i : Instr) {s : State} (hs : BlockInv s) : ∃ t, exec i s = .next t := by
  by_cases hi : i = .exec
  · subst hi
    exact execExec_answers s hs.shape_ne_none
  · exact exec_answers i s hi

/-- Every access keeps the invariant. -/
theorem Serves.keeps_blockInv {e : BusEvent} {s t : State} (h : Serves e s t) (hs : BlockInv s) : BlockInv t := by
  cases h with
  | reset => exact blockInv_reset.of_same_binding rfl rfl blockInv_reset.legal_pair
  | answered _ r _ => exact hs.answer r
  | written _ data hperm _ =>
    have hstatus := s.windowWrite_status data hperm
    refine .answer (hs.of_same_binding (s.windowWrite_desc _ _ _) ?_ ?_) _
    · rw [hstatus]; rfl
    · rw [hstatus]; exact hs.legal_pair
  | command _ hexec => exact exec_keeps_blockInv (hs.answer _) hexec
  | illegal _ _ => exact hs.of_same_binding rfl rfl (CmdError.pair_legal _)

end Sys2Proof.Machine

namespace Sys2Proof.Proofs

open Sys2Proof.Machine Sys2Proof.Safety

/-- Settles O9: the reset state is unbound and has no error. -/
theorem resetMeetsInv : Obligations.ResetMeetsInv := blockInv_reset

/-- Settles O10: the first access is served, since no command stops the block, and serving it keeps the invariant. -/
theorem stepKeepsInv : Obligations.StepKeepsInv := by
  intro s hs
  cases hp : s.pending with
  | nil => exact ⟨s, step_nil hp, hs⟩
  | cons e rest =>
    have hs' : BlockInv { s with pending := rest } := hs
    obtain ⟨t, ht⟩ := serve_answers e { s with pending := rest } fun i => exec_answers_of_blockInv i hs'
    exact ⟨t, (step_cons hp).trans ht, (serve_cases ht).keeps_blockInv hs'⟩

end Sys2Proof.Proofs
end

section
/-! The registers the host reads: their words (R26, R30, R36, R37), the constant ID (R27), and reset (R42). -/

namespace Sys2Proof.Machine

open Sys2Proof.Safety

/-- STATUS as a number, field by field (R30). -/
theorem Status.word_reads (f : Status) :
    StatusReads f f.err.toNat f.cause.toNat f.bound.toNat f.onull.toNat f.bitv.toNat f.errs.toNat := by
  simp only [StatusReads, Status.word, append_toNat, BitVec.toNat_ofNat, BitVec.toNat_ofBool]
  omega

/-- DESC as a number, field by field (R26). -/
theorem Desc.word_reads (d : Desc) :
    DescReads d d.kind.code.toNat d.dir.code.toNat d.wc.code.toNat d.n.toNat d.repr.code.toNat d.cc.code.toNat
      d.rf.toNat d.ru.toNat := by
  simp only [DescReads, Desc.word, append_toNat, BitVec.toNat_ofNat, BitVec.toNat_ofBool]
  omega

/-- NULLM as a number, field by field (R36). -/
theorem NullMask.word_toNat (m : NullMask) : m.word.toNat = m.ln.toNat + 2 ^ 16 * m.tn.toNat := by
  simp only [NullMask.word, append_toNat, BitVec.toNat_ofNat, BitVec.toNat_ofBool]
  omega

/-- NULLM keeps bits 16 to 0 of a word written to it (R36). -/
theorem NullMask.ofWord_word_toNat (v : Reg64) : (NullMask.ofWord v).word.toNat = v.toNat % 2 ^ 17 := by
  rw [NullMask.word_toNat, NullMask.ofWord, BitVec.toNat_setWidth, BitVec.getLsbD, Nat.toNat_testBit]
  omega

/-- A host write of any size at ID changes nothing (R27). -/
theorem State.windowWrite_id (s : State) {off : BitVec 12} (size : Nat) (data : Reg64) (h : off.toNat < 8) :
    s.windowWrite off size data = s := by
  have hreg : WinReg.ofOffset? off = some .id := by rw [WinReg.ofOffset?, Nat.div_eq_of_lt h]
  rw [State.windowWrite, hreg]
  rfl

end Sys2Proof.Machine

namespace Sys2Proof.Proofs

open Sys2Proof.Machine Sys2Proof.Safety

/-- Settles O7: every field of `State.reset` is the value R42 states. -/
theorem resetLeavesEveryRegisterAsStated : Obligations.ResetLeavesEveryRegisterAsStated :=
  ⟨rfl, by decide, by decide, State.reset.status.word_reads, by decide, rfl, rfl⟩

/-- Settles O22: a 64-bit read at a register's offset answers its word, and a word is the sum of its fields. -/
theorem registerWordsHaveTheStatedLayout : Obligations.RegisterWordsHaveTheStatedLayout := by
  refine ⟨fun s rest => ⟨step_read_register .status, step_read_register .desc, step_read_register .nullm, fun hp => ?_⟩,
    Status.word_reads, Desc.word_reads, NullMask.word_toNat, NullMask.ofWord_word_toNat⟩
  refine ⟨_, step_read_register .ecmd hp, fun k hk => ?_, fun k hk => ?_⟩
  · simp only [State.readReg, BitVec.getLsbD_setWidth]
    simp [Nat.lt_trans hk]
  · simp only [State.readReg, BitVec.getLsbD_setWidth, BitVec.getLsbD_of_ge _ _ hk, Bool.and_false]

/-- Settles O23: ID reads its constant in every state, and a write to either half or to the whole is ignored. -/
theorem identityIsConstant : Obligations.IdentityIsConstant := by
  refine fun s rest => ⟨step_read_register .id, fun off size data hacc hp => ?_⟩
  obtain ⟨hperm, hlt⟩ : permitted off size = true ∧ off.toNat < 8 := by
    rcases hacc with ⟨rfl, rfl⟩ | ⟨rfl, rfl⟩ | ⟨rfl, rfl⟩ <;> decide
  have hcmd : issuesCommand off = false := by
    simp only [issuesCommand, decide_eq_false_iff_not]
    rintro rfl
    exact absurd hlt (by decide)
  refine ⟨_, (step_cons hp).trans (serve_write _ data hperm hcmd), ?_⟩
  rw [State.windowWrite_id _ _ _ hlt]
  exact ⟨rfl, rfl, rfl, rfl, rfl, rfl⟩

end Sys2Proof.Proofs
end

section
/-! Who writes ERRS, ONULL, BITV, DESC and BOUND (R28, R32 to R36). -/

namespace Sys2Proof.Machine

open Sys2Proof.Safety

/-- An outcome with ERR other than 0 is a raise, and every raise sets ERRS (R35). -/
theorem exec_errs_of_err {i : Instr} {s t : State} (h : exec i s = .next t) (herr : t.status.err ≠ 0) :
    t.status.errs = true := by
  rcases exec_cases h with ⟨e, rfl⟩ | ⟨u, rfl, -⟩
  · obtain ⟨-, -, herrs, -⟩ := s.raise_records i e
    exact herrs
  · exact absurd rfl herr

/-- No command clears ERRS (R35). -/
theorem exec_keeps_errs {i : Instr} {s t : State} (h : exec i s = .next t) (hs : s.status.errs = true) :
    t.status.errs = true := by
  rcases exec_cases h with ⟨e, rfl⟩ | ⟨u, rfl, hu⟩
  · obtain ⟨-, -, herrs, -⟩ := s.raise_records i e
    exact herrs
  · exact hu.errs.trans hs

/-- What clears ERRS: reset, or a write at 0x010 with bit 16 set (R35). -/
theorem Serves.errs_cleared {e : BusEvent} {s t : State} (h : Serves e s t) (hs : s.status.errs = true)
    (ht : t.status.errs = false) :
    e = .reset ∨ ∃ size data, (size = 4 ∨ size = 8) ∧ e = .write 0x010#12 size data ∧ data.getLsbD 16 = true := by
  cases h with
  | reset => exact .inl rfl
  | answered _ _ _ => exact absurd (hs.symm.trans ht) (by decide)
  | @written off size _ data hperm _ =>
    rw [State.answer_status, s.windowWrite_status data hperm, Status.clearErrs_errs, hs] at ht
    simp only [Bool.true_and, Bool.not_eq_false', Bool.and_eq_true, decide_eq_true_eq] at ht
    obtain ⟨rfl, hbit⟩ := ht
    have hsize := permitted_iff.mp hperm
    exact .inr ⟨size, data, by omega, rfl, hbit⟩
  | command _ hexec => exact absurd ((exec_keeps_errs hexec hs).symm.trans ht) (by decide)
  | illegal _ _ => cases ht

/-- A permitted write to STATUS reaches ERRS alone, and only at 0x010 (R35, log entry 5). -/
theorem step_write_status {s : State} {rest : List BusEvent} {off : BitVec 12} {size : Nat} {data : Reg64}
    (hperm : permitted off size = true) (hreg : WinReg.ofOffset? off = some .status)
    (hp : s.pending = .write off size data :: rest) :
    ∃ t, step s = .next t ∧
      SameRegisters { s with status := s.status.clearErrs (decide (off = 0x010#12) && data.getLsbD 16) } t := by
  have hcmd : issuesCommand off = false := by
    rcases status_offsets hperm hreg with rfl | rfl <;> decide
  refine ⟨_, (step_cons hp).trans (serve_write _ data hperm hcmd), ?_⟩
  have hstatus := State.windowWrite_status { s with pending := rest } data hperm
  rw [State.windowWrite, hreg] at hstatus ⊢
  exact ⟨rfl, rfl, rfl, hstatus, rfl, rfl⟩

/-- EXEC leaves ONULL 1 exactly on the null path (R33, R198). -/
theorem execExec_onull {s t : State} (h : execExec s = .next t) :
    t.status.onull = (s.status.bound && s.nullm.tn) := by
  rcases execExec_cases h with ⟨hb, rfl⟩ | ⟨hb, sh, -, ⟨e, he, rfl⟩ | ⟨u, hu, rfl⟩⟩
  · rw [hb]; rfl
  · obtain ⟨rfl, htn, -, -⟩ := runCodec_error he
    rw [htn, Bool.and_false]; rfl
  · rcases runCodec_cases hu with ⟨htn, rfl⟩ | ⟨htn, -, -, rfl⟩ | ⟨htn, -, rfl⟩ <;> rw [hb, htn] <;> rfl

/-- No command but EXEC changes ONULL (R33). -/
theorem exec_keeps_onull {i : Instr} {s t : State} (hi : i ≠ .exec) (h : exec i s = .next t) :
    t.status.onull = s.status.onull := by
  rcases exec_cases h with ⟨e, rfl⟩ | ⟨u, rfl, hu⟩
  · exact s.raise_onull e hi
  · exact hu.onull hi

/-- No command but GETB changes BITV (R34). -/
theorem exec_keeps_bitv {i : Instr} {s t : State} (hi : ∀ p, i ≠ .getb p) (h : exec i s = .next t) :
    t.status.bitv = s.status.bitv := by
  rcases exec_cases h with ⟨e, rfl⟩ | ⟨u, rfl, hu⟩
  · obtain ⟨-, -, -, -, -, hbitv⟩ := s.raise_frame i e
    exact hbitv
  · exact hu.bitv hi

/-- No command writes NULLM, and none touches the bus (R36). -/
theorem exec_keeps_nullm_bus {i : Instr} {s t : State} (h : exec i s = .next t) :
    t.nullm = s.nullm ∧ SameBus s t := by
  rcases exec_cases h with ⟨e, rfl⟩ | ⟨u, rfl, hu⟩
  · obtain ⟨-, -, hnullm, hpending, hreply, -⟩ := s.raise_frame i e
    exact ⟨hnullm, hpending, hreply⟩
  · exact ⟨hu.nullm, hu.pending, hu.reply⟩

/-- After a bind, BOUND = 1 exactly when it raised nothing, and DESC is 0 when it raised (R28, R32, R233). -/
theorem bind_outcome {i : Instr} {s t : State} (hi : i.opcode = .binde ∨ i.opcode = .bindd) (h : exec i s = .next t) :
    (t.status.bound = true ↔ t.status.err = 0) ∧ (t.status.err ≠ 0 → t.desc.word = 0) := by
  rcases bind_cases hi h with ⟨e, rfl, hdesc, hbound⟩ | ⟨d, rfl, -⟩
  · have herr : (s.raise i e).status.err ≠ 0 := by
      obtain ⟨herr, -, -, -⟩ := s.raise_records i e
      rw [herr]
      exact e.cls.code_ne_zero
    refine ⟨iff_of_false (by simp [hbound]) herr, fun _ => ?_⟩
    rw [hdesc]; decide
  · exact ⟨⟨fun _ => rfl, fun _ => rfl⟩, fun herr => absurd rfl herr⟩

/-- A host write that issues no command changes neither ONULL nor BITV (R33, R34). -/
theorem Serves.write_flags {s t : State} {off : BitVec 12} {size : Nat} {data : Reg64}
    (h : Serves (.write off size data) s t) (hoff : off ≠ 0x008#12) : SameFlags s t := by
  cases h with
  | answered _ _ _ => exact ⟨rfl, rfl⟩
  | written _ _ hperm _ =>
    rw [SameFlags, State.answer_status, s.windowWrite_status data hperm]
    exact ⟨rfl, rfl⟩
  | command _ _ => exact absurd rfl hoff
  | illegal _ _ => exact absurd rfl hoff

/-- What changes DESC or BOUND: reset, or a bind's word (R28, R32). -/
theorem Serves.binding_changed {e : BusEvent} {s t : State} (h : Serves e s t)
    (hne : t.desc ≠ s.desc ∨ t.status.bound ≠ s.status.bound) :
    e = .reset ∨ ∃ size data i, e = .write 0x008#12 size data ∧ decodeWord (data.setWidth 32) = .ok i ∧
      (i.opcode = .binde ∨ i.opcode = .bindd) := by
  have keeps : t.desc = s.desc → t.status.bound = s.status.bound → False := fun hd hb =>
    hne.elim (fun h => h hd) fun h => h hb
  cases h with
  | reset => exact .inl rfl
  | answered _ _ _ => exact (keeps rfl rfl).elim
  | written _ data hperm _ =>
    refine (keeps (s.windowWrite_desc _ _ _) ?_).elim
    rw [State.answer_status, s.windowWrite_status data hperm]
    rfl
  | @command size data i _ _ hdec hexec =>
    refine .inr ⟨size, data, i, rfl, hdec, ?_⟩
    by_contra hi
    obtain ⟨he, hd⟩ := not_or.mp hi
    obtain ⟨hdesc, hbound⟩ := exec_keeps_binding he hd hexec
    exact keeps hdesc hbound
  | illegal _ _ => exact (keeps rfl rfl).elim

end Sys2Proof.Machine

namespace Sys2Proof.Proofs

open Sys2Proof.Machine Sys2Proof.Safety

/-- Settles O20: every raise sets ERRS, no command clears it, and of the host's accesses only reset and a 1 written to
bit 16 do. -/
theorem errsIsStickyUntilClearedOrReset : Obligations.ErrsIsStickyUntilClearedOrReset := by
  refine ⟨fun i s t => exec_errs_of_err, fun w s rest hw hp => ?_, fun s t h hs ht => ?_,
    fun s rest size data hsize hp => ?_, fun s rest data hp => ?_⟩
  · obtain ⟨x, hx⟩ := step_illegal hw hp
    exact ⟨_, hx, (illegalError x).cls.code_ne_zero, rfl⟩
  · rcases step_cases h with rfl | ⟨e, rest, hp, he⟩
    · exact absurd (hs.symm.trans ht) (by decide)
    · rw [hp]
      exact (he.errs_cleared hs ht).imp (congrArg some) fun ⟨size, data, hsize, hw, hbit⟩ =>
        ⟨size, data, hsize, congrArg some hw, hbit⟩
  · have hperm : permitted 0x010#12 size = true := by rcases hsize with rfl | rfl <;> decide
    obtain ⟨t, ht, hsame⟩ := step_write_status hperm (by decide) hp
    obtain ⟨hcw, hlanes, hdesc, hstatus, hnullm, hecmd⟩ := hsame
    refine ⟨t, ht, by simp [hstatus], hcw, hlanes, hdesc, ?_, hnullm, hecmd⟩
    rw [hstatus]
    rfl
  · obtain ⟨t, ht, hsame⟩ := step_write_status (by decide) (by decide) hp
    exact ⟨t, ht, by simpa using hsame⟩

/-- Settles O44: EXEC writes ONULL and GETB writes BITV; every other command, an illegal word and a host write leave
them. -/
theorem onullAndBitvHaveOneWriterEach : Obligations.OnullAndBitvHaveOneWriterEach := by
  refine ⟨fun s t => execExec_onull, fun i s t => exec_keeps_onull, fun p s t h => ?_, fun i s t => exec_keeps_bitv,
    fun s t rest off size data hoff hp h => ?_, fun w s rest hw hp => ?_⟩
  · obtain rfl := Host.Outcome.next.inj h
    rfl
  · rw [step_cons hp] at h
    exact (serve_cases h).write_flags hoff
  · obtain ⟨x, hx⟩ := step_illegal hw hp
    exact ⟨_, hx, rfl, rfl⟩

/-- Settles O45: a bind makes DESC and BOUND anew; every other command, and every access but reset, leaves them. -/
theorem onlyBindsWriteTheDescriptor : Obligations.OnlyBindsWriteTheDescriptor := by
  refine ⟨fun i s t h => ?_, fun s t h hne => ?_⟩
  · obtain ⟨hnullm, hbus⟩ := exec_keeps_nullm_bus h
    exact ⟨hnullm, hbus, fun he hd => exec_keeps_binding he hd h, fun hi => bind_outcome hi h⟩
  · rcases step_cases h with rfl | ⟨e, rest, hp, he⟩
    · simp at hne
    · rw [hp]
      exact (he.binding_changed hne).imp (congrArg some) fun ⟨size, data, i, hw, hdec, hi⟩ =>
        ⟨size, data, i, congrArg some hw, hdec, hi⟩

end Sys2Proof.Proofs
end

section
/-! EXEC on operands that differ only outside the tuple (R24, R200). -/

namespace Sys2Proof.Machine

/-- Lane registers that agree below W in the lanes below N are the same operand (R24). -/
theorem State.readLanes_congr (s : State) (sh : LaneShape) (lanes : Vector Reg64 16)
    (h : ∀ (j : Fin 16) (i : Nat), j.val < sh.n → i < sh.W → lanes[j.val].getLsbD i = s.lanes[j.val].getLsbD i) :
    State.readLanes { s with lanes := lanes } sh = s.readLanes sh := by
  refine congrArg Vector.ofFn (funext fun j => ?_)
  apply BitVec.eq_of_getLsbD_eq
  intro i hi
  simp only [BitVec.getLsbD_setWidth, hi, decide_true, Bool.true_and]
  exact h ⟨j.val, Nat.lt_of_lt_of_le j.isLt sh.le_max⟩ i j.isLt hi

/-- Code words that agree below N·W are the same operand (R200). -/
theorem State.readCode_congr (s : State) (sh : LaneShape) (cw : CodeWord)
    (h : ∀ k, k < sh.n * sh.W → cw.getLsbD k = s.cw.getLsbD k) :
    State.readCode { s with cw := cw } sh = s.readCode sh := by
  apply BitVec.eq_of_getLsbD_eq
  intro k hk
  rw [Nat.mul_comm] at hk
  simp only [State.readCode, BitVec.getLsbD_setWidth, h k hk]

/-- An encode leaves the lanes, so it answers the same over any lanes with the same operand. -/
theorem runCodec_with_lanes (s : State) (sh : LaneShape) (lanes : Vector Reg64 16) (hdir : s.desc.dir = .encode)
    (h : State.readLanes { s with lanes := lanes } sh = s.readLanes sh) :
    runCodec { s with lanes := lanes } sh = (runCodec s sh).map fun u => { u with lanes := lanes } := by
  have hnull : State.nullLanes { s with lanes := lanes } sh.n = s.nullLanes sh.n := rfl
  simp only [runCodec, h, hnull, hdir]
  cases s.nullm.tn with
  | true => rfl
  | false =>
    by_cases hn : s.nullLanes sh.n ≠ 0#16
    · simp only [if_pos hn]; rfl
    · simp only [if_neg hn]; rfl

/-- A decode leaves CW, so it answers the same over any code word with the same operand. -/
theorem runCodec_with_cw (s : State) (sh : LaneShape) (cw : CodeWord) (hdir : s.desc.dir = .decode)
    (h : State.readCode { s with cw := cw } sh = s.readCode sh) :
    runCodec { s with cw := cw } sh = (runCodec s sh).map fun u => { u with cw := cw } := by
  simp only [runCodec, h, hdir]
  cases s.nullm.tn <;> rfl

/-- EXEC unbound (R196). -/
theorem execExec_unbound {s : State} (hb : s.status.bound = false) : execExec s = .next (s.raise .exec .unbound) := by
  simp [execExec, hb]

/-- EXEC bound to a descriptor with a lane shape (R196). -/
theorem execExec_of_shape {s : State} {sh : LaneShape} (hb : s.status.bound = true) (hsh : s.desc.shape? = some sh) :
    execExec s = finish .exec s (runCodec s sh) := by
  simp [execExec, hb, hsh]

/-- A change of data registers that a bound run of the codec does not see goes through EXEC, since neither a raise nor a
completion touches them. -/
theorem execExec_commutes {s t : State} {f : State → State} (h : execExec s = .next t)
    (hdesc : (f s).desc = s.desc) (hbound : (f s).status.bound = s.status.bound)
    (hraise : ∀ e, (f s).raise .exec e = f (s.raise .exec e)) (hcomplete : ∀ u, (f u).complete = f u.complete)
    (hrun : ∀ sh, s.desc.shape? = some sh → runCodec (f s) sh = (runCodec s sh).map f) :
    execExec (f s) = .next (f t) := by
  rcases execExec_cases h with ⟨hb, rfl⟩ | ⟨hb, sh, hsh, hend⟩
  · rw [execExec_unbound (hbound.trans hb), hraise]
  · rw [execExec_of_shape (hbound.trans hb) (by rw [hdesc, hsh]), hrun sh hsh]
    rcases hend with ⟨e, he, rfl⟩ | ⟨u, hu, rfl⟩
    · rw [he, ← hraise]; rfl
    · rw [hu, ← hcomplete]; rfl

end Sys2Proof.Machine

namespace Sys2Proof.Proofs

open Sys2Proof.Machine Sys2Proof.Safety

/-- Settles O39: the operand EXEC reads is the same, and the rest of what it does commutes with the change. -/
theorem execIgnoresBitsOutsideTheTuple : Obligations.ExecIgnoresBitsOutsideTheTuple := by
  constructor
  · intro s t lanes h hdir hagree
    refine execExec_commutes (f := fun u => { u with lanes := lanes }) h rfl rfl
      (fun e => by cases e <;> rfl) (fun _ => rfl) fun sh hsh => ?_
    obtain ⟨hw, hn⟩ := (s.desc.shape?_eq_some sh).mp hsh
    rw [hw, hn] at hagree
    exact runCodec_with_lanes s sh lanes hdir (s.readLanes_congr sh lanes hagree)
  · intro s t cw h hdir hagree
    refine execExec_commutes (f := fun u => { u with cw := cw }) h rfl rfl
      (fun e => by cases e <;> rfl) (fun _ => rfl) fun sh hsh => ?_
    obtain ⟨hw, hn⟩ := (s.desc.shape?_eq_some sh).mp hsh
    rw [hw, hn] at hagree
    exact runCodec_with_cw s sh cw hdir (s.readCode_congr sh cw hagree)

end Sys2Proof.Proofs
end

section
/-! The statements of 20_memory.md. First the rules of a single access: what a read and a write answer, which locations
read 0 or ignore a write, and the write that runs a command (R64, R65, R68, R69). -/

namespace Sys2Proof.Machine

open Sys2Proof.Safety

/-- The step that serves a permitted read answers the window's bytes and changes no register (R66, R69). -/
theorem step_read {s : State} {rest : List BusEvent} {off : BitVec 12} {size : Nat} (h : permitted off size = true)
    (hp : s.pending = .read off size :: rest) :
    step s = .next { s with pending := rest, reply := some { error := false, data := s.windowRead off size } } :=
  (step_cons hp).trans (serve_read _ h)

/-- The step that serves any other access answers a bus error and no data (R68). -/
theorem step_refused {s : State} {rest : List BusEvent} {e : BusEvent} {off : BitVec 12} {size : Nat} {data : Reg64}
    (he : e = .read off size ∨ e = .write off size data) (h : permitted off size = false)
    (hp : s.pending = e :: rest) :
    step s = .next { s with pending := rest, reply := some { error := true, data := 0 } } := by
  obtain ⟨hread, hwrite⟩ := serve_refused { s with pending := rest } data h
  rw [step_cons hp]
  rcases he with rfl | rfl
  · exact hread
  · exact hwrite

/-- Only a write at 0x008 issues a command (R65). -/
theorem issuesCommand_eq_false {off : BitVec 12} (h : off ≠ 0x008#12) : issuesCommand off = false := by
  simp [issuesCommand, h]

/-- The step that serves a permitted write which issues no command (R63, R64). -/
theorem step_write {s : State} {rest : List BusEvent} {off : BitVec 12} {size : Nat} {data : Reg64}
    (h : permitted off size = true) (hoff : off ≠ 0x008#12) (hp : s.pending = .write off size data :: rest) :
    step s = .next ((State.windowWrite { s with pending := rest } off size data).answer .done) :=
  (step_cons hp).trans (serve_write _ data h (issuesCommand_eq_false hoff))

/-- The step that serves a permitted write to CMD issues the low 32 bits (R65). -/
theorem step_command {s : State} {rest : List BusEvent} {size : Nat} {data : Reg64}
    (h : permitted 0x008#12 size = true) (hp : s.pending = .write 0x008#12 size data :: rest) :
    step s = issue (data.setWidth 32) (served s rest) :=
  (step_cons hp).trans (serve_command _ data h)

/-- Issuing a word touches neither what was sent nor the answer (R72). -/
theorem issue_keeps_bus {w : CmdWord} {s t : State} (h : issue w s = .next t) : SameBus s t := by
  unfold issue at h
  split at h
  · exact (exec_keeps_nullm_bus h).2
  · obtain rfl := Host.Outcome.next.inj h
    exact ⟨rfl, rfl⟩

/-- A permitted write is answered without a bus error, the command it runs whatever it does (R68, R72). -/
theorem step_write_reply {s t : State} {rest : List BusEvent} {off : BitVec 12} {size : Nat} {data : Reg64}
    (h : permitted off size = true) (hp : s.pending = .write off size data :: rest) (ht : step s = .next t) :
    t.reply = some .done := by
  by_cases hoff : off = 0x008#12
  · subst hoff
    rw [step_command h hp] at ht
    obtain ⟨-, hreply⟩ := issue_keeps_bus ht
    exact hreply
  · rw [step_write h hoff hp] at ht
    obtain rfl := Host.Outcome.next.inj ht
    rfl

/-- The offsets from 0x0C0 on hold no register (R62, R64). -/
theorem WinReg.ofOffset?_reserved {off : BitVec 12} (h : 0x0C0 ≤ off.toNat) : WinReg.ofOffset? off = none := by
  obtain ⟨k, hk⟩ : ∃ k, off.toNat / 8 = k + 24 := ⟨off.toNat / 8 - 24, by omega⟩
  rw [WinReg.ofOffset?, hk]
  exact dif_neg (by omega)

/-- The locations that ignore every write: ID, DESC, ECMD and the reserved offsets (R64). -/
theorem State.windowWrite_ignored (s : State) {off : BitVec 12} (size : Nat) (data : Reg64)
    (h : off.toNat / 8 = 0 ∨ off.toNat / 8 = 3 ∨ off.toNat / 8 = 5 ∨ 0x0C0 ≤ off.toNat) :
    s.windowWrite off size data = s := by
  rw [State.windowWrite]
  rcases h with h | h | h | h
  · rw [WinReg.ofOffset?, h]; rfl
  · rw [WinReg.ofOffset?, h]; rfl
  · rw [WinReg.ofOffset?, h]; rfl
  · rw [WinReg.ofOffset?_reserved h]

/-- A location whose register reads 0 is read as 0 at every size (R64, R65). -/
theorem State.windowRead_of_readAt_zero {s : State} {off : BitVec 12} (size : Nat) (h : s.readAt off = 0) :
    s.windowRead off size = 0 := by
  simp [State.windowRead, h]

/-- A word that is no command raises IllegalCommand and changes nothing else (R91, R92, R232). -/
theorem State.raiseIllegal_illegalEffect (s : State) (rest : List BusEvent) (w : CmdWord) (x : Illegal) :
    IllegalEffect (illegalError x).cause.toNat w s ((served s rest).raiseIllegal w x) := by
  cases x <;> exact ⟨⟨rfl, rfl, rfl, rfl⟩, ⟨rfl, rfl⟩, ⟨rfl, rfl, rfl⟩, rfl, rfl⟩

/-- A word placed by `withFetchWord` is what the next step issues (log entry 3). -/
theorem step_withFetchWord (s : State) (w : CmdWord) :
    step (s.withFetchWord 32 w.toNat) = issue w (served s s.pending) := by
  have hword : (BitVec.ofNat 64 (w.toNat % 2 ^ 32)).setWidth 32 = w := by
    rw [BitVec.setWidth_ofNat_of_le (by decide), Nat.mod_eq_of_lt w.isLt, BitVec.ofNat_toNat, BitVec.setWidth_eq]
  have hstep := step_command (s := s.withFetchWord 32 w.toNat) (size := 4) (by decide) rfl
  rw [hword] at hstep
  exact hstep

end Sys2Proof.Machine

namespace Sys2Proof.Proofs

open Sys2Proof.Machine Sys2Proof.Safety

/-- Settles O15: what is not permitted is refused in one step, and what is permitted is answered with no bus error. -/
theorem otherAccessesAreRefusedWithoutEffect : Obligations.OtherAccessesAreRefusedWithoutEffect := by
  refine ⟨fun s rest e off size data he hp hacc => ?_, fun s t rest e off size data he hp hacc ht => ?_⟩
  · have hperm : permitted off size = false := by rw [← Bool.not_eq_true, permitted_iff]; exact hacc
    exact ⟨0, step_refused he hperm hp, fun _ => rfl⟩
  · have hperm := permitted_iff.mpr hacc
    rcases he with rfl | rfl
    · rw [step_read hperm hp] at ht
      obtain rfl := Host.Outcome.next.inj ht
      exact ⟨_, rfl, rfl⟩
    · exact ⟨_, step_write_reply hperm hp ht, rfl⟩

/-- Settles O16: a read, permitted or refused, ends in a state that differs in the two bus fields alone, so that the
same read again answers from the same registers. -/
theorem readsHaveNoSideEffect : Obligations.ReadsHaveNoSideEffect := by
  intro s rest off size hp
  cases hperm : permitted off size with
  | true => exact ⟨_, step_read hperm hp, ⟨rfl, rfl, rfl, rfl, rfl, rfl⟩, _, step_read hperm rfl, rfl⟩
  | false =>
    have hread : BusEvent.read off size = .read off size ∨ BusEvent.read off size = .write off size 0 := .inl rfl
    exact ⟨_, step_refused hread hperm hp, ⟨rfl, rfl, rfl, rfl, rfl, rfl⟩, _, step_refused hread hperm rfl, rfl⟩

/-- Settles O19: by location; each write that is ignored leaves the window's state, and STATUS has ERRS alone to lose. -/
theorem readOnlyAndReservedLocationsKeepTheState : Obligations.ReadOnlyAndReservedLocationsKeepTheState := by
  intro s rest off size data hacc
  have hperm := permitted_iff.mpr hacc
  refine ⟨fun hloc hp => ?_, fun hloc hp => ?_, fun hloc hp => ?_⟩
  · have hoff : off ≠ 0x008#12 := by rintro rfl; exact absurd hloc (by decide)
    refine ⟨0, ?_⟩
    rw [step_write hperm hoff hp, State.windowWrite_ignored _ size data hloc]
    rfl
  · have hreg : WinReg.ofOffset? off = some .status := by rw [WinReg.ofOffset?, hloc]
    obtain ⟨t, ht, hsame⟩ := step_write_status hperm hreg hp
    exact ⟨t, _, 0, ht, step_write_reply hperm hp ht, hsame⟩
  · have hzero : s.readAt off = 0 := by rw [State.readAt, WinReg.ofOffset?_reserved hloc]
    rw [step_read hperm hp, State.windowRead_of_readAt_zero size hzero]

/-- Settles O12: the write to CMD issues its low 32 bits, and CMD as a register holds nothing. -/
theorem cmdWriteRunsTheDecodedCommand : Obligations.CmdWriteRunsTheDecodedCommand := by
  refine ⟨fun s rest size data hsize hp => ?_, fun s rest data => step_write (by decide) (by decide),
    fun s rest off size hacc hp => ?_, fun s i w hw => ?_⟩
  · have hperm : permitted 0x008#12 size = true := by rcases hsize with rfl | rfl <;> decide
    rw [step_command hperm hp, issue]
    refine ⟨fun i hi => ?_, fun hx => ?_, fun hx => ?_⟩
    · rw [hi]
    · rw [hx]; exact ⟨_, rfl, s.raiseIllegal_illegalEffect rest _ .reservedOpcode⟩
    · rw [hx]; exact ⟨_, rfl, s.raiseIllegal_illegalEffect rest _ .unusedBits⟩
  · obtain ⟨hperm, hreg⟩ : permitted off size = true ∧ WinReg.ofOffset? off = some .cmd := by
      rcases hacc with ⟨rfl, rfl⟩ | ⟨rfl, rfl⟩ | ⟨rfl, rfl⟩ <;> decide
    have hzero : s.readAt off = 0 := by rw [State.readAt, hreg]; rfl
    rw [step_read hperm hp, State.windowRead_of_readAt_zero size hzero]
    rfl
  · rw [step_withFetchWord, issue, hw]

end Sys2Proof.Proofs
end

section
/-! The order of accesses (R71): serving the first reads nothing of what was sent after it or answered before it. -/

namespace Sys2Proof.Machine

/-- An outcome with its next state, where it has one, changed by `f`. -/
def mapNext (f : State → State) : Host.Outcome State Fault Refusal → Host.Outcome State Fault Refusal
  | .next t => .next (f t)
  | .fault x => .fault x
  | .refused x => .refused x

/-- The state with another list of accesses still to be served. -/
def State.withPending (p : List BusEvent) (s : State) : State := { s with pending := p }

/-- A raise goes through a change of what is pending. -/
theorem State.raise_withPending (s : State) (p : List BusEvent) (i : Instr) (e : CmdError) :
    (s.withPending p).raise i e = (s.raise i e).withPending p := by
  cases i <;> cases e <;> rfl

/-- The end of a command goes through a change of what is pending. -/
theorem finish_withPending (i : Instr) (s : State) (p : List BusEvent) (x : Except CmdError State) :
    finish i (s.withPending p) (x.map (State.withPending p)) = mapNext (State.withPending p) (finish i s x) := by
  cases x with
  | ok u => rfl
  | error e => exact congrArg Host.Outcome.next (s.raise_withPending p i e)

/-- A command whose effect on its operands does not read `pending`. -/
theorem finish_map_withPending {α : Type} {i : Instr} {s : State} {p : List BusEvent} (x : Except CmdError α)
    {f g : α → State} (h : ∀ a, g a = (f a).withPending p) :
    finish i (s.withPending p) (x.map g) = mapNext (State.withPending p) (finish i s (x.map f)) := by
  rw [← finish_withPending, show g = State.withPending p ∘ f from funext h]
  cases x <;> rfl

/-- The codec reads no access. -/
theorem runCodec_withPending (s : State) (p : List BusEvent) (sh : LaneShape) :
    runCodec (s.withPending p) sh = (runCodec s sh).map (State.withPending p) := by
  have hnullm : (s.withPending p).nullm = s.nullm := rfl
  have hdesc : (s.withPending p).desc = s.desc := rfl
  have hnull : (s.withPending p).nullLanes sh.n = s.nullLanes sh.n := rfl
  simp only [runCodec, hnullm, hdesc, hnull]
  cases s.nullm.tn with
  | true => rfl
  | false =>
    cases s.desc.dir with
    | decode => rfl
    | encode =>
      by_cases hn : s.nullLanes sh.n ≠ 0#16
      · simp only [if_pos hn]; rfl
      · simp only [if_neg hn]; rfl

/-- EXEC bound to a descriptor without a lane shape stops (log entry 6). -/
theorem execExec_of_no_shape {s : State} (hb : s.status.bound = true) (hsh : s.desc.shape? = none) :
    execExec s = .fault .invalidDescriptor := by
  simp [execExec, hb, hsh]

/-- EXEC, its stop included, does not depend on what is pending. -/
theorem execExec_withPending (s : State) (p : List BusEvent) :
    execExec (s.withPending p) = mapNext (State.withPending p) (execExec s) := by
  cases hb : s.status.bound with
  | false =>
    rw [execExec_unbound hb, execExec_unbound (s := s.withPending p) hb, State.raise_withPending]
    rfl
  | true =>
    cases hsh : s.desc.shape? with
    | none =>
      rw [execExec_of_no_shape hb hsh, execExec_of_no_shape (s := s.withPending p) hb hsh]
      rfl
    | some sh =>
      rw [execExec_of_shape hb hsh, execExec_of_shape (s := s.withPending p) hb hsh, runCodec_withPending,
        finish_withPending]

/-- No command depends on what is pending (R70, R71). -/
theorem exec_withPending (i : Instr) (s : State) (p : List BusEvent) :
    exec i (s.withPending p) = mapNext (State.withPending p) (exec i s) := by
  cases i with
  | exec => exact execExec_withPending s p
  | nop => rfl
  | getb _ => rfl
  | setb _ _ => rfl
  | binde kind wc n repr => exact finish_map_withPending (encodeDesc kind wc n repr) fun _ => rfl
  | bindd kind wc n rf ru => exact finish_map_withPending (decodeDesc kind wc n rf ru) fun _ => rfl
  | graye wc => exact finish_map_withPending (grayWidth wc) fun _ => rfl
  | grayd wc => exact finish_map_withPending (grayWidth wc) fun _ => rfl
  | ordp wc repr => exact finish_map_withPending (ordOperands wc repr) fun _ => rfl
  | ordd wc repr => exact finish_map_withPending (ordOperands wc repr) fun _ => rfl
  | ilv wc n => exact finish_map_withPending (laneShape wc n) fun _ => rfl
  | dil wc n => exact finish_map_withPending (laneShape wc n) fun _ => rfl
  | rotf wc n => exact finish_map_withPending (laneShape wc n) fun _ => rfl
  | roti wc n => exact finish_map_withPending (laneShape wc n) fun _ => rfl

/-- Issuing a word does not depend on what is pending. -/
theorem issue_withPending (w : CmdWord) (s : State) (p : List BusEvent) :
    issue w (s.withPending p) = mapNext (State.withPending p) (issue w s) := by
  unfold issue
  cases decodeWord w with
  | ok i => exact exec_withPending i s p
  | error x => rfl

/-- A host write reads and changes neither bus field. -/
theorem State.windowWrite_with_bus (s : State) (off : BitVec 12) (size : Nat) (data : Reg64) (p : List BusEvent)
    (r : Option BusReply) :
    State.windowWrite { s with pending := p, reply := r } off size data =
      { s.windowWrite off size data with pending := p, reply := r } := by
  unfold State.windowWrite
  cases WinReg.ofOffset? off with
  | none => rfl
  | some x => cases x <;> rfl

/-- Serving an access has the same outcome whatever is still pending and whatever was answered before (R71). -/
theorem serve_with_bus (e : BusEvent) (s : State) (p : List BusEvent) (r : Option BusReply) :
    serve e { s with pending := p, reply := r } = mapNext (State.withPending p) (serve e s) := by
  cases e with
  | reset => rfl
  | read off size =>
    cases h : permitted off size with
    | true => rw [serve_read _ h, serve_read _ h]; rfl
    | false => rw [(serve_refused _ 0 h).1, (serve_refused _ 0 h).1]; rfl
  | write off size data =>
    cases h : permitted off size with
    | false => rw [(serve_refused _ data h).2, (serve_refused _ data h).2]; rfl
    | true =>
      by_cases hoff : off = 0x008#12
      · subst hoff
        rw [serve_command _ data h, serve_command _ data h]
        exact issue_withPending _ (s.answer .done) p
      · have hc := issuesCommand_eq_false hoff
        rw [serve_write _ data h hc, serve_write _ data h hc, State.windowWrite_with_bus]
        rfl

/-- Serving leaves what was sent after, and only the reset signal has no answer (R71, log entry 9). -/
theorem Serves.bus {e : BusEvent} {s t : State} (h : Serves e s t) :
    t.pending = s.pending ∧ (t.reply = none ↔ e = .reset) := by
  cases h with
  | reset => exact ⟨rfl, iff_of_true rfl rfl⟩
  | answered _ _ hne => exact ⟨rfl, iff_of_false (by simp) hne⟩
  | @written off size _ data _ _ =>
    have hpending := congrArg State.pending (s.windowWrite_with_bus off size data s.pending s.reply)
    exact ⟨hpending, iff_of_false (by simp) (by simp)⟩
  | command _ hexec =>
    obtain ⟨-, hpending, hreply⟩ := exec_keeps_nullm_bus hexec
    exact ⟨hpending, iff_of_false (by simp [hreply]) (by simp)⟩
  | illegal _ _ => exact ⟨rfl, iff_of_false nofun nofun⟩

end Sys2Proof.Machine

namespace Sys2Proof.Proofs

open Sys2Proof.Machine

/-- Settles O14: both steps serve the same first access, and serving it commutes with a change of the bus fields. -/
theorem accessesAreServedInOrder : Obligations.AccessesAreServedInOrder := by
  intro s e rest hp
  have hstep := step_cons hp
  have hother : ∀ rest' r, step { s with pending := e :: rest', reply := r } =
      mapNext (State.withPending rest') (step s) := fun rest' r => by
    rw [hstep]
    exact (step_cons rfl).trans (serve_with_bus e { s with pending := rest } rest' r)
  refine ⟨fun t ht => ?_, fun f hf rest' r => by rw [hother, hf]; rfl⟩
  obtain ⟨hpending, hreply⟩ := (serve_cases (hstep.symm.trans ht)).bus
  exact ⟨hpending, hreply, fun rest' r => by rw [hother, ht]; rfl⟩

end Sys2Proof.Proofs
end

section
/-! The window bit by bit: little-endian bytes (R66), whole writes (R63) and half writes (R67) of its registers. -/

namespace Sys2Proof.Machine

/-- A permitted read, bit by bit: `size` bytes of the register from the access's own shift on (R66). -/
theorem State.windowRead_getLsbD (s : State) (off : BitVec 12) (size k : Nat) :
    (s.windowRead off size).getLsbD k =
      ((s.readAt off).getLsbD (bitShift off + k) && (decide (k < 64) && decide (k < 8 * size))) := by
  rw [State.windowRead, BitVec.getLsbD_and, BitVec.getLsbD_ushiftRight, sizeMask_getLsbD]

/-- A byte of the window, bit by bit. -/
theorem State.windowByte_getLsbD (s : State) (off : BitVec 12) (k : Nat) :
    (s.windowByte off).getLsbD k = (decide (k < 8) && (s.readAt off).getLsbD (bitShift off + k)) := by
  rw [State.windowByte, BitVec.getLsbD_setWidth, BitVec.getLsbD_ushiftRight]

/-- At a multiple of 8 an access begins with bit 0 of its register (R66). -/
theorem bitShift_of_aligned {off : BitVec 12} (h : off.toNat % 8 = 0) : bitShift off = 0 := by
  rw [bitShift, h]

/-- Byte k of an aligned register is within the window. -/
theorem toNat_byteOffset {off : BitVec 12} (h : off.toNat % 8 = 0) {k : Nat} (hk : k < 8) :
    (off + BitVec.ofNat 12 k).toNat = off.toNat + k := by
  have := off.isLt
  rw [BitVec.toNat_add, BitVec.toNat_ofNat]
  omega

/-- Byte k of an aligned register is in the same register (R62). -/
theorem WinReg.ofOffset?_byteOffset {off : BitVec 12} (h : off.toNat % 8 = 0) {k : Nat} (hk : k < 8) :
    WinReg.ofOffset? (off + BitVec.ofNat 12 k) = WinReg.ofOffset? off := by
  rw [WinReg.ofOffset?, WinReg.ofOffset?, toNat_byteOffset h hk, show (off.toNat + k) / 8 = off.toNat / 8 by omega]

/-- Byte k of an aligned register stands 8k bits above its bit 0 (R66). -/
theorem bitShift_byteOffset {off : BitVec 12} (h : off.toNat % 8 = 0) {k : Nat} (hk : k < 8) :
    bitShift (off + BitVec.ofNat 12 k) = 8 * k := by
  rw [bitShift, toNat_byteOffset h hk]
  omega

/-- The bytes of one register are read from it alone. -/
theorem State.readAt_byteOffset (s : State) {off : BitVec 12} (h : off.toNat % 8 = 0) {k : Nat} (hk : k < 8) :
    s.readAt (off + BitVec.ofNat 12 k) = s.readAt off := by
  rw [State.readAt, WinReg.ofOffset?_byteOffset h hk]
  rfl

/-- The map places every register at a multiple of 8 (R62). -/
theorem WinReg.offset_aligned (r : WinReg) : r.offset.toNat % 8 = 0 := by
  have h := r.bitShift_offset
  rw [bitShift] at h
  omega

/-- The 32-bit half `h` of a register (R67). -/
def WinReg.half (r : WinReg) (h : Fin 2) : BitVec 12 := r.offset + BitVec.ofNat 12 (4 * h.val)

/-- A half is permitted to a 32-bit access, lies in its register, and stands 32 bits higher for the upper one. -/
theorem WinReg.half_access (r : WinReg) (h : Fin 2) :
    permitted (r.half h) 4 = true ∧ WinReg.ofOffset? (r.half h) = some r ∧ bitShift (r.half h) = 32 * h.val := by
  have hbyte : 4 * h.val < 8 := by omega
  have halign := r.offset_aligned
  unfold WinReg.half
  refine ⟨permitted_iff.mpr (.inl ⟨rfl, ?_⟩), ?_, ?_⟩
  · rw [toNat_byteOffset halign hbyte]
    omega
  · rw [WinReg.ofOffset?_byteOffset halign hbyte, r.ofOffset?_offset]
  · rw [bitShift_byteOffset halign hbyte]
    omega

/-- The step that serves a permitted write to a register other than CMD (R63, R67). -/
theorem step_write_register {s : State} {rest : List BusEvent} {off : BitVec 12} {size : Nat} {data : Reg64} {r : WinReg}
    (h : permitted off size = true) (hreg : WinReg.ofOffset? off = some r) (hr : r ≠ .cmd)
    (hp : s.pending = .write off size data :: rest) :
    step s = .next ((State.writeReg { s with pending := rest } r (accessMask off size) (data <<< bitShift off)).answer
      .done) := by
  have hoff : off ≠ 0x008#12 := by
    rintro rfl
    exact hr (Option.some.inj (hreg.symm.trans (by decide)))
  rw [step_write h hoff hp, State.windowWrite, hreg]

/-- A 64-bit write at a register's own offset covers all of it (R63). -/
theorem step_write_whole {s : State} {rest : List BusEvent} {data : Reg64} (r : WinReg) (hr : r ≠ .cmd)
    (hp : s.pending = .write r.offset 8 data :: rest) :
    step s = .next ((State.writeReg { s with pending := rest } r (sizeMask 8) data).answer .done) := by
  have hperm := permitted_iff.mpr (.inr ⟨rfl, r.offset_aligned⟩)
  rw [step_write_register hperm r.ofOffset?_offset hr hp, accessMask, r.bitShift_offset, BitVec.shiftLeft_zero,
    BitVec.shiftLeft_zero]

/-- A 32-bit write of the half `h` (R67). -/
theorem step_write_half {s : State} {rest : List BusEvent} {data : Reg64} (r : WinReg) (h : Fin 2) (hr : r ≠ .cmd)
    (hp : s.pending = .write (r.half h) 4 data :: rest) :
    step s = .next ((State.writeReg { s with pending := rest } r (accessMask (r.half h) 4)
      (data <<< (32 * h.val))).answer .done) := by
  obtain ⟨hperm, hreg, hshift⟩ := r.half_access h
  rw [step_write_register hperm hreg hr hp, hshift]

/-- A register with one half written, bit by bit: that half is the low 32 bits of the data, the other is kept (R67). -/
theorem merge_half_getLsbD (old data : Reg64) (r : WinReg) (h : Fin 2) {k : Nat} (hk : k < 64) :
    (merge old (accessMask (r.half h) 4) (data <<< (32 * h.val))).getLsbD k =
      if k / 32 = h.val then data.getLsbD (k % 32) else old.getLsbD k := by
  obtain ⟨-, -, hshift⟩ := r.half_access h
  have hmask : (accessMask (r.half h) 4).getLsbD k = true ↔ k / 32 = h.val := by
    simp only [accessMask_getLsbD, hshift, Bool.and_eq_true, decide_eq_true_eq]
    omega
  rw [merge_getLsbD]
  by_cases hhalf : k / 32 = h.val
  · rw [if_pos (hmask.mpr hhalf), if_pos hhalf, BitVec.getLsbD_shiftLeft, show k - 32 * h.val = k % 32 by omega]
    simp [hk, show 32 * h.val ≤ k by omega]
  · rw [if_neg (mt hmask.mp hhalf), if_neg hhalf]

/-- The two registers of the window that CW is (R62): CW_LO its bits 63 to 0, CW_HI its bits 127 to 64. -/
def WinReg.cwHalf : Fin 2 → WinReg
  | 0 => .cwLo
  | 1 => .cwHi

/-- Neither CW_LO nor CW_HI is CMD. -/
theorem WinReg.cwHalf_ne_cmd (q : Fin 2) : WinReg.cwHalf q ≠ .cmd := by
  revert q; decide

/-- The halves of CW_LO and CW_HI are the four 32-bit words from 0x030 on (R62). -/
theorem WinReg.half_cwHalf (q h : Fin 2) :
    (WinReg.cwHalf q).half h = BitVec.ofNat 12 (0x030 + 8 * q.val + 4 * h.val) := by
  revert q h; decide

/-- A write to CW_LO or CW_HI merges into its own half of CW (R63, R67). -/
theorem State.writeReg_cwHalf_same (s : State) (q : Fin 2) (mask data : Reg64) :
    (s.writeReg (.cwHalf q) mask data).cw.extractLsb' (64 * q.val) 64 =
      merge (s.cw.extractLsb' (64 * q.val) 64) mask data :=
  match q with
  | 0 => BitVec.extractLsb'_append_eq_right.trans (by rw [BitVec.setWidth_eq_extractLsb' (by decide)]; rfl)
  | 1 => BitVec.extractLsb'_append_eq_left

/-- A write to CW_LO or CW_HI leaves the other half of CW (R63). -/
theorem State.writeReg_cwHalf_other (s : State) {p q : Fin 2} (mask data : Reg64) (h : p ≠ q) :
    (s.writeReg (.cwHalf q) mask data).cw.extractLsb' (64 * p.val) 64 = s.cw.extractLsb' (64 * p.val) 64 :=
  match p, q with
  | 0, 0 => absurd rfl h
  | 1, 1 => absurd rfl h
  | 0, 1 => BitVec.extractLsb'_append_eq_right.trans (BitVec.setWidth_eq_extractLsb' (by decide))
  | 1, 0 => BitVec.extractLsb'_append_eq_left

/-- A bit of CW is a bit of one of its halves. -/
theorem getLsbD_eq_cwHalf (x : CodeWord) (k : Nat) :
    x.getLsbD k = (x.extractLsb' (64 * (k / 64)) 64).getLsbD (k % 64) := by
  rw [BitVec.getLsbD_extractLsb', decide_eq_true (Nat.mod_lt k (by decide)), Bool.true_and, Nat.div_add_mod]

/-- CW with a half of one of its registers written, bit by bit (R67). -/
theorem State.writeReg_cwHalf_half_getLsbD (s : State) (q h : Fin 2) (data : Reg64) {k : Nat} (hk : k < 128) :
    (s.writeReg (.cwHalf q) (accessMask ((WinReg.cwHalf q).half h) 4) (data <<< (32 * h.val))).cw.getLsbD k =
      if k / 32 = 2 * q.val + h.val then data.getLsbD (k % 32) else s.cw.getLsbD k := by
  have hmod : k % 64 < 64 := Nat.mod_lt k (by decide)
  rw [getLsbD_eq_cwHalf, getLsbD_eq_cwHalf s.cw]
  by_cases hq : k / 64 = q.val
  · rw [hq, State.writeReg_cwHalf_same, merge_half_getLsbD _ _ _ _ hmod, Nat.mod_mod_of_dvd k (by decide : 32 ∣ 64)]
    exact if_congr (by omega) rfl rfl
  · obtain ⟨p, hp⟩ : ∃ p : Fin 2, p.val = k / 64 := ⟨⟨k / 64, by omega⟩, rfl⟩
    have hpq : p ≠ q := fun h => hq (by rw [← hp, h])
    rw [← hp, State.writeReg_cwHalf_other _ _ _ hpq, if_neg (by omega)]

/-- NULLM keeps the low 17 bits of what is written, so words that agree on those are one to it (R36). -/
theorem NullMask.ofWord_congr {v w : Reg64} (h : ∀ k, k ≤ 16 → v.getLsbD k = w.getLsbD k) :
    NullMask.ofWord v = NullMask.ofWord w := by
  simp only [NullMask.ofWord, NullMask.mk.injEq]
  refine ⟨BitVec.eq_of_getLsbD_eq fun k hk => ?_, h 16 (Nat.le_refl 16)⟩
  rw [BitVec.getLsbD_setWidth, BitVec.getLsbD_setWidth, h k (Nat.le_of_lt hk)]

/-- The lane mask bits of NULLM are the low 16 bits of what is written (R36). -/
theorem NullMask.ofWord_ln_getLsbD (v : Reg64) {k : Nat} (hk : k < 16) :
    (NullMask.ofWord v).ln.getLsbD k = v.getLsbD k := by
  simp [NullMask.ofWord, hk, -BitVec.getLsbD_eq_getElem]

/-- A write of one lane sets it (R63). -/
theorem State.writeLane_get_same (s : State) (j : Fin 16) (v : Reg64) : (s.writeLane j v).lanes[j.val] = v :=
  Vector.getElem_set_self j.isLt

/-- A write of one lane leaves the others (R63). -/
theorem State.writeLane_get_other (s : State) {i j : Fin 16} (v : Reg64) (h : i ≠ j) :
    (s.writeLane j v).lanes[i.val] = s.lanes[i.val] :=
  Vector.getElem_set_ne j.isLt i.isLt (Fin.val_ne_of_ne h.symm)

end Sys2Proof.Machine

namespace Sys2Proof.Proofs

open Sys2Proof.Machine Sys2Proof.Safety

/-- Settles O21: every claim is read off bit by bit from the one register that holds the bytes. -/
theorem windowIsLittleEndian : Obligations.WindowIsLittleEndian := by
  refine ⟨fun s rest off size hacc => step_read (permitted_iff.mpr hacc), fun s off k hk => ?_,
    fun s off halign => ⟨?_, fun k hk => ?_, fun size hsize => ?_⟩⟩
  · rw [s.windowRead_getLsbD, decide_eq_false (show ¬ k < 8 * 4 by omega), Bool.and_false, Bool.and_false]
  · have hshift := bitShift_byteOffset halign (k := 4) (by decide)
    have hreg := s.readAt_byteOffset halign (k := 4) (by decide)
    apply BitVec.eq_of_getLsbD_eq
    intro k hk
    rw [BitVec.getLsbD_append]
    simp only [BitVec.getLsbD_setWidth, s.windowRead_getLsbD, bitShift_of_aligned halign, hshift, hreg]
    by_cases hlow : k < 32
    · simp [hk, hlow]
    · simp [hk, hlow, show k - 32 < 32 by omega, show k - 32 < 64 by omega, show 32 + (k - 32) = k by omega]
  · apply BitVec.eq_of_getLsbD_eq
    intro b hb
    rw [s.windowByte_getLsbD, bitShift_byteOffset halign hk, s.readAt_byteOffset halign hk, BitVec.getLsbD_extractLsb',
      s.windowRead_getLsbD, bitShift_of_aligned halign]
    have hlt : 8 * k + b < 64 := by omega
    simp [hlt]
  · apply BitVec.eq_of_getLsbD_eq
    intro b hb
    rw [s.windowByte_getLsbD, BitVec.getLsbD_setWidth, s.windowRead_getLsbD, bitShift_of_aligned halign]
    have hlt : b < 8 * size := by omega
    simp [hlt, show b < 64 by omega]

/-- Settles O17: a 64-bit access at a register's own offset reads or replaces the whole of it. -/
theorem dataRegistersReadAndWrite : Obligations.DataRegistersReadAndWrite := by
  intro s rest v
  refine ⟨fun hp => ?_, step_read_register .cwHi, fun j => step_read_register (.lane j), fun hp => ?_, fun hp => ?_,
    fun hp => ?_, fun j hp => ?_, fun hp => ?_⟩
  · rw [step_read_register .cwLo hp, State.readReg, BitVec.setWidth_eq_extractLsb' (by decide)]
  · refine ⟨_, step_read_register .nullm hp, fun k hk => ?_, ?_, fun k hk => ?_⟩
    all_goals rw [State.readReg, NullMask.word_getLsbD]
    · rw [if_pos hk]
    · simp
    · rw [if_neg (by omega), decide_eq_false (by omega), Bool.false_and]
  · exact ⟨_, step_write_whole .cwLo (by decide) hp,
      (State.writeReg_cwHalf_same _ 0 (sizeMask 8) v).trans (merge_sizeMask_eight _ v),
      State.writeReg_cwHalf_other (p := 1) (q := 0) _ (sizeMask 8) v (by decide), rfl, rfl, rfl, rfl, rfl, rfl⟩
  · exact ⟨_, step_write_whole .cwHi (by decide) hp,
      (State.writeReg_cwHalf_same _ 1 (sizeMask 8) v).trans (merge_sizeMask_eight _ v),
      State.writeReg_cwHalf_other (p := 0) (q := 1) _ (sizeMask 8) v (by decide), rfl, rfl, rfl, rfl, rfl, rfl⟩
  · refine ⟨_, step_write_whole (.lane j) nofun hp, ?_, fun i hi => State.writeLane_get_other _ _ hi,
      rfl, rfl, rfl, rfl, rfl, rfl⟩
    rw [State.answer_lanes, State.writeReg, merge_sizeMask_eight, State.writeLane_get_same]
  · refine ⟨_, step_write_whole .nullm (by decide) hp, fun k hk => ?_, ?_, rfl, rfl, rfl, rfl, rfl, rfl⟩
    all_goals rw [State.answer_nullm, State.writeReg, merge_sizeMask_eight]
    · exact NullMask.ofWord_ln_getLsbD v hk
    · rfl

/-- Settles O18: a register with one half written, bit by bit; CW is two registers side by side, and NULLM keeps 17 bits
of the merged word. -/
theorem halfWritesLeaveTheOtherHalf : Obligations.HalfWritesLeaveTheOtherHalf := by
  refine fun s rest h v => ⟨fun q hp => ?_, fun j hp => ?_, fun hp => ?_⟩
  · rw [← WinReg.half_cwHalf] at hp
    refine ⟨_, step_write_half (.cwHalf q) h (WinReg.cwHalf_ne_cmd q) hp,
      fun k hk => State.writeReg_cwHalf_half_getLsbD _ q h v hk, ?_⟩
    match q with
    | 0 => exact ⟨rfl, rfl, rfl, rfl, rfl, rfl⟩
    | 1 => exact ⟨rfl, rfl, rfl, rfl, rfl, rfl⟩
  · rw [BitVec.ofNat_add] at hp
    refine ⟨_, step_write_half (.lane j) h nofun hp, fun k hk => ?_, fun i hi => State.writeLane_get_other _ _ hi,
      rfl, rfl, rfl, rfl, rfl, rfl⟩
    rw [State.answer_lanes, State.writeReg, State.writeLane_get_same, merge_half_getLsbD _ _ _ _ hk]
  · rw [BitVec.ofNat_add] at hp
    refine ⟨_, step_write_half .nullm h (by decide) hp, fun h0 => ?_, fun h1 => ?_, rfl, rfl, rfl, rfl, rfl, rfl⟩
    · have hlow : ∀ k, k < 32 → (merge s.nullm.word (accessMask (WinReg.nullm.half h) 4)
          (v <<< (32 * h.val))).getLsbD k = v.getLsbD k := fun k hk => by
        rw [merge_half_getLsbD _ _ _ _ (by omega), if_pos (by omega), Nat.mod_eq_of_lt hk]
      exact ⟨fun k hk => (NullMask.ofWord_ln_getLsbD _ hk).trans (hlow k (by omega)), hlow 16 (by decide)⟩
    · refine (NullMask.ofWord_congr fun k hk => ?_).trans s.nullm.ofWord_word
      rw [merge_half_getLsbD _ _ _ _ (by omega), if_neg (by omega)]

end Sys2Proof.Proofs
end

section
/-! The encoding (30_encoding.md R80 to R94). First the fields of a word: what reading one gives of a word built
from fields, and which bits of a word are put back by writing what was read. -/

namespace Sys2Proof

/-- No two fields share a bit (R80). -/
theorem Field.disjoint {f g : Field} (h : f ≠ g) : f.lo + f.width ≤ g.lo ∨ g.lo + g.width ≤ f.lo := by
  revert h
  cases f <;> cases g <;> decide

/-- The fields stand above OP and within the word (R80). -/
theorem Field.bounds (f : Field) : 5 ≤ f.lo ∧ f.lo + f.width ≤ 32 := by
  cases f <;> decide

/-- A value shifted to a field's place, bit by bit. -/
theorem Field.getLsbD_place (f : Field) (v : BitVec f.width) (k : Nat) :
    (v.setWidth 32 <<< f.lo).getLsbD k = (decide (f.lo ≤ k) && v.getLsbD (k - f.lo)) := by
  have hf := f.bounds
  rw [BitVec.getLsbD_shiftLeft, BitVec.getLsbD_setWidth]
  by_cases hk : k < 32
  · simp [hk, show k - f.lo < 32 by omega, ← decide_not]
  · simp [hk, BitVec.getLsbD_of_ge v (k - f.lo) (by omega)]

/-- A field's place in a word, bit by bit. -/
theorem Field.put_getLsbD (f : Field) (x k : Nat) :
    (f.put x).getLsbD k = (decide (f.lo ≤ k) && (decide (k - f.lo < f.width) && x.testBit (k - f.lo))) := by
  rw [Field.put, f.getLsbD_place, BitVec.getLsbD_ofNat]

/-- The bits of a field. -/
theorem Field.mask_getLsbD (f : Field) (k : Nat) :
    f.mask.getLsbD k = (decide (f.lo ≤ k) && decide (k - f.lo < f.width)) := by
  rw [Field.mask, f.getLsbD_place, BitVec.getLsbD_allOnes]

/-- A field's value, bit by bit (R81). -/
theorem Field.get_testBit (f : Field) (w : CmdWord) (k : Nat) :
    (f.get w).testBit k = (decide (k < f.width) && w.getLsbD (f.lo + k)) := by
  rw [Field.get, ← BitVec.getLsbD, BitVec.getLsbD_extractLsb']

/-- A field's value fits its bits. -/
theorem Field.get_lt (f : Field) (w : CmdWord) : f.get w < 2 ^ f.width := (w.extractLsb' f.lo f.width).isLt

/-- A field of a word put together from two. -/
@[simp] theorem Field.get_or (f : Field) (v w : CmdWord) : f.get (v ||| w) = f.get v ||| f.get w := by
  rw [Field.get, BitVec.extractLsb'_or, BitVec.toNat_or, Field.get, Field.get]

/-- A field holds the low bits of what was put in it. -/
@[simp] theorem Field.get_put_same (f : Field) (x : Nat) : f.get (f.put x) = x % 2 ^ f.width := by
  refine Nat.eq_of_testBit_eq fun k => ?_
  rw [f.get_testBit, f.put_getLsbD, Nat.testBit_mod_two_pow]
  simp +contextual

/-- What is put in one field is not seen in another. -/
@[simp] theorem Field.get_put_other {f g : Field} (h : f ≠ g) (x : Nat) : f.get (g.put x) = 0 := by
  have hdis := Field.disjoint h
  refine Nat.eq_of_testBit_eq fun k => ?_
  rw [f.get_testBit, g.put_getLsbD, Nat.zero_testBit, ← Bool.not_eq_true]
  simp only [Bool.and_eq_true, decide_eq_true_eq]
  omega

/-- A one-bit field, as a number (R86, R88). -/
theorem Field.toNat_flag {f : Field} (h : f.width = 1) (w : CmdWord) : (f.flag w).toNat = f.get w := by
  rw [Field.get, h, Field.flag, BitVec.getLsbD, Nat.toNat_testBit, BitVec.extractLsb'_toNat, Nat.shiftRight_eq_div_pow,
    Nat.pow_one]

/-- A one-bit field is true where its number is 1. -/
theorem Field.flag_eq_decide {f : Field} (h : f.width = 1) (w : CmdWord) : f.flag w = decide (f.get w = 1) := by
  rw [← f.toNat_flag h]
  simp

/-- Writing back what a field holds keeps its bits and no others. -/
theorem Field.put_get (f : Field) (w : CmdWord) : f.put (f.get w) = w &&& f.mask := by
  refine BitVec.eq_of_getLsbD_eq fun k hk => ?_
  rw [BitVec.getLsbD_and, f.put_getLsbD, f.get_testBit, f.mask_getLsbD]
  by_cases hlo : f.lo ≤ k
  · rw [Nat.add_sub_cancel' hlo]
    simp [hlo, Bool.and_comm]
  · simp [hlo]

/-- Writing back a one-bit field, the same. -/
theorem Field.putFlag_flag {f : Field} (h : f.width = 1) (w : CmdWord) : f.putFlag (f.flag w) = w &&& f.mask := by
  rw [Field.putFlag, Field.toNat_flag h, f.put_get]

/-- A field's bits are put above a word that ends below it, and the numbers add. -/
theorem Field.toNat_or_put (f : Field) {v : CmdWord} {c x : Nat} (hv : v.toNat = c) (hc : c < 2 ^ f.lo)
    (hx : x < 2 ^ f.width) : (v ||| f.put x).toNat = c + 2 ^ f.lo * x := by
  have hput : (f.put x).toNat = 2 ^ f.lo * x := by
    have hf := f.bounds
    have hlt : x * 2 ^ f.lo < 2 ^ 32 := calc
      x * 2 ^ f.lo < 2 ^ f.width * 2 ^ f.lo := Nat.mul_lt_mul_of_pos_right hx (Nat.two_pow_pos _)
      _ = 2 ^ (f.lo + f.width) := by rw [← Nat.pow_add, Nat.add_comm]
      _ ≤ 2 ^ 32 := Nat.pow_le_pow_right (by decide) (by omega)
    have hx32 : x < 2 ^ 32 := hx.trans_le (Nat.pow_le_pow_right (by decide) (by omega))
    rw [Field.put, BitVec.toNat_shiftLeft, BitVec.toNat_setWidth, BitVec.toNat_ofNat, Nat.mod_eq_of_lt hx,
      Nat.mod_eq_of_lt hx32, Nat.shiftLeft_eq, Nat.mod_eq_of_lt hlt, Nat.mul_comm]
  rw [BitVec.toNat_or, hv, hput, Nat.or_comm, ← Nat.two_pow_add_eq_or_of_lt hc, Nat.add_comm]

end Sys2Proof
end

section
/-! The opcode map (R90 to R92), and the decoder and the encoder as each other's inverse. -/

namespace Sys2Proof

/-- An OP value fits its five bits. -/
theorem Opcode.code_lt (o : Opcode) : o.code < 2 ^ 5 := by
  cases o <;> decide

/-- The opcode map finds every opcode at its own code, and nothing else there (R90, R92). -/
theorem Opcode.ofCode?_eq_some {c : Nat} {o : Opcode} : Opcode.ofCode? c = some o ↔ c = o.code := by
  constructor
  · intro h
    unfold Opcode.ofCode? at h
    split at h <;> cases h <;> rfl
  · rintro rfl
    cases o <;> rfl

/-- OP as a number: the low five bits (R80). -/
theorem opOf_eq_mod (w : CmdWord) : opOf w = w.toNat % 32 := by
  rw [opOf, BitVec.extractLsb'_toNat, Nat.shiftRight_zero]

/-- OP is five bits. -/
theorem opOf_lt (w : CmdWord) : opOf w < 2 ^ 5 := (w.extractLsb' 0 5).isLt

/-- OP of a word put together from two. -/
@[simp] theorem opOf_or (v w : CmdWord) : opOf (v ||| w) = opOf v ||| opOf w := by
  rw [opOf, BitVec.extractLsb'_or, BitVec.toNat_or, opOf, opOf]

/-- What is put in a field is not seen in OP. -/
@[simp] theorem opOf_put (f : Field) (x : Nat) : opOf (f.put x) = 0 := by
  have hf := f.bounds
  refine Nat.eq_of_testBit_eq fun k => ?_
  rw [opOf, ← BitVec.getLsbD, BitVec.getLsbD_extractLsb', f.put_getLsbD, Nat.zero_testBit, ← Bool.not_eq_true]
  simp only [Bool.and_eq_true, decide_eq_true_eq]
  omega

/-- OP of a word that is an OP value alone. -/
theorem opOf_ofNat {c : Nat} (h : c < 2 ^ 5) : opOf (BitVec.ofNat 32 c) = c := by
  rw [opOf_eq_mod, BitVec.toNat_ofNat]
  omega

/-- OP of an opcode's bare code. -/
theorem opOf_code (o : Opcode) : opOf (BitVec.ofNat 32 o.code) = o.code := opOf_ofNat o.code_lt

/-- An opcode's bare code holds 0 in every field. -/
@[simp] theorem Field.get_code (f : Field) (o : Opcode) : f.get (BitVec.ofNat 32 o.code) = 0 := by
  cases o <;> cases f <;> rfl

/-- OP is the word's bits under its mask. -/
theorem ofNat_opOf (w : CmdWord) : BitVec.ofNat 32 (opOf w) = w &&& 0x1F#32 := by
  refine BitVec.eq_of_toNat_eq ?_
  have hmask : w.toNat &&& 31 = w.toNat % 32 := Nat.and_two_pow_sub_one_eq_mod w.toNat 5
  rw [opOf_eq_mod, BitVec.toNat_ofNat, BitVec.toNat_and]
  exact (Nat.mod_eq_of_lt (by omega)).trans hmask.symm

/-- A command made of an opcode is of that opcode. -/
@[simp] theorem Opcode.instr_opcode (o : Opcode) (w : CmdWord) : (o.instr w).opcode = o := by
  cases o <;> rfl

/-- What the decoder takes for a command: the word's OP is the command's, no unused bit is set (R91), and the fields are
the command's. -/
theorem decodeWord_ok_iff {w : CmdWord} {i : Instr} :
    decodeWord w = .ok i ↔ opOf w = i.opcode.code ∧ w &&& ~~~i.opcode.usedMask = 0#32 ∧ i.opcode.instr w = i := by
  unfold decodeWord
  constructor
  · intro h
    split at h
    · cases h
    next o ho =>
    split at h
    · cases h
    next hused =>
    obtain rfl := Except.ok.inj h
    rw [Opcode.instr_opcode]
    exact ⟨Opcode.ofCode?_eq_some.mp ho, not_not.mp hused, rfl⟩
  · rintro ⟨hop, hused, hinstr⟩
    rw [Opcode.ofCode?_eq_some.mpr hop]
    simp only [hused, ne_eq, not_true_eq_false, if_false, hinstr]

/-- A word of a command's OP with an unused bit set is no command (R91). -/
theorem decodeWord_unusedBits {w : CmdWord} {o : Opcode} (hop : opOf w = o.code)
    (hused : w &&& ~~~o.usedMask ≠ 0#32) : decodeWord w = .error .unusedBits := by
  unfold decodeWord
  rw [Opcode.ofCode?_eq_some.mpr hop]
  exact if_pos hused

/-- A word with a reserved OP is no command, whatever its other bits are (R92). -/
theorem decodeWord_reservedOpcode {w : CmdWord} (h : Opcode.ofCode? (opOf w) = none) :
    decodeWord w = .error .reservedOpcode := by
  rw [decodeWord, h]

/-- R91 of every encoded word: the statements of Laws/PerInstr, together. -/
theorem encode_within_used (i : Instr) : Laws.UsedBits.Statement i := by
  cases i with
  | nop => exact Laws.UsedBits.nop
  | binde kind wc n repr => exact Laws.UsedBits.binde kind wc n repr
  | bindd kind wc n rf ru => exact Laws.UsedBits.bindd kind wc n rf ru
  | exec => exact Laws.UsedBits.exec
  | getb p => exact Laws.UsedBits.getb p
  | setb p v => exact Laws.UsedBits.setb p v
  | graye wc => exact Laws.UsedBits.graye wc
  | grayd wc => exact Laws.UsedBits.grayd wc
  | ordp wc repr => exact Laws.UsedBits.ordp wc repr
  | ordd wc repr => exact Laws.UsedBits.ordd wc repr
  | ilv wc n => exact Laws.UsedBits.ilv wc n
  | dil wc n => exact Laws.UsedBits.dil wc n
  | rotf wc n => exact Laws.UsedBits.rotf wc n
  | roti wc n => exact Laws.UsedBits.roti wc n

/-- OP of an encoded command is its own: its fields stand elsewhere. -/
theorem opOf_encode (i : Instr) : opOf (encode i) = i.opcode.code := by
  have hfields : opOf i.fieldBits = 0 := by
    cases i <;> simp only [Instr.fieldBits, Field.putFlag, opOf_or, opOf_put, Nat.or_self] <;> rfl
  rw [encode, opOf_or, opOf_code, hfields, Nat.or_zero]

/-- OP plays no part in the other fields of an encoded command. -/
theorem Field.get_encode (f : Field) (i : Instr) : f.get (encode i) = f.get i.fieldBits := by
  rw [encode, f.get_or, f.get_code, Nat.zero_or]

/-- A truth value is the one bit of its number. -/
theorem decide_toNat_mod_two (b : Bool) : decide (b.toNat % 2 = 1) = b := by
  cases b <;> rfl

/-- The fields of a well-formed command are read back from its word: no two share a bit, and each value fits. -/
theorem instr_encode {i : Instr} (h : i.wellFormed = true) : i.opcode.instr (encode i) = i := by
  have hrf := Field.flag_eq_decide (f := .rf) rfl
  have hru := Field.flag_eq_decide (f := .ru) rfl
  have hv := Field.flag_eq_decide (f := .v) rfl
  cases i <;> simp_all [Instr.wellFormed, Instr.opcode, Opcode.instr, Field.get_encode, Instr.fieldBits, Field.putFlag,
    Field.width, Nat.mod_eq_of_lt, decide_toNat_mod_two]

/-- R80, R90: a command is decoded from its own word. -/
theorem decodeWord_encode {i : Instr} (h : i.wellFormed = true) : decodeWord (encode i) = .ok i :=
  decodeWord_ok_iff.mpr ⟨opOf_encode i, encode_within_used i, instr_encode h⟩

/-- What a word's fields hold fits them, so the command made of them is well-formed (R93). -/
theorem wellFormed_instr (o : Opcode) (w : CmdWord) : (o.instr w).wellFormed = true := by
  have hkind : Field.kind.get w < 4 := Field.kind.get_lt w
  have hwc : Field.wc.get w < 8 := Field.wc.get_lt w
  have hn : Field.n.get w < 32 := Field.n.get_lt w
  have hrepr : Field.repr.get w < 4 := Field.repr.get_lt w
  have hp : Field.p.get w < 128 := Field.p.get_lt w
  cases o <;> simp [Opcode.instr, Instr.wellFormed, hkind, hwc, hn, hrepr, hp]

/-- Encoding the command made of a word's fields keeps OP and those fields, and clears every other bit. -/
theorem encode_instr {o : Opcode} {w : CmdWord} (h : opOf w = o.code) : encode (o.instr w) = w &&& o.usedMask := by
  have hrf := Field.putFlag_flag (f := .rf) rfl w
  have hru := Field.putFlag_flag (f := .ru) rfl w
  have hv := Field.putFlag_flag (f := .v) rfl w
  rw [encode, Opcode.instr_opcode, ← h, ofNat_opOf]
  cases o <;> simp [Opcode.instr, Instr.fieldBits, Field.put_get, hrf, hru, hv, Opcode.usedMask, Opcode.fieldsUsed,
    BitVec.and_or_distrib_left, BitVec.or_assoc]

/-- A word with no bit outside a mask is the same under it. -/
theorem and_eq_self_of_and_not_eq_zero {w m : CmdWord} (h : w &&& ~~~m = 0#32) : w &&& m = w :=
  calc w &&& m = w &&& m ||| w &&& ~~~m := by rw [h, BitVec.or_zero]
    _ = w := by rw [← BitVec.and_or_distrib_left, BitVec.or_not_self, BitVec.and_allOnes]

/-- Under a mask of two disjoint parts, a word is a value within the first exactly when it is that value under the first
and 0 under the second. -/
theorem and_or_eq_iff {w a b c : CmdWord} (hc : c &&& a = c) (hab : a &&& b = 0#32) :
    w &&& (a ||| b) = c ↔ w &&& a = c ∧ w &&& b = 0#32 := by
  constructor
  · intro h
    have ha : w &&& a = c := by
      rw [← hc, ← h, BitVec.and_assoc, BitVec.and_or_distrib_right, BitVec.and_self, BitVec.and_comm b, hab,
        BitVec.or_zero]
    have hb : w &&& b = c &&& b := by
      rw [← h, BitVec.and_assoc, BitVec.and_or_distrib_right, hab, BitVec.and_self, BitVec.zero_or]
    exact ⟨ha, by rw [hb, ← hc, BitVec.and_assoc, hab, BitVec.and_zero]⟩
  · rintro ⟨ha, hb⟩
    rw [BitVec.and_or_distrib_left, ha, hb, BitVec.or_zero]

/-- The mask of the opcode table is OP and the bits R91 keeps 0, and its match is the bare code. -/
theorem maskAndMatch_eq (o : Opcode) :
    Safety.maskAndMatch o = (0x1F#32 ||| ~~~o.usedMask, BitVec.ofNat 32 o.code) := by
  cases o <;> rfl

/-- What the opcode table's row of an opcode selects: its OP, with no unused bit set (R91). -/
theorem matches_iff {o : Opcode} {w : CmdWord} :
    w &&& (Safety.maskAndMatch o).1 = (Safety.maskAndMatch o).2 ↔ opOf w = o.code ∧ w &&& ~~~o.usedMask = 0#32 := by
  have hcode : BitVec.ofNat 32 o.code &&& 0x1F#32 = BitVec.ofNat 32 o.code := by rw [← ofNat_opOf, opOf_code]
  have hop : 0x1F#32 &&& ~~~o.usedMask = 0#32 := by cases o <;> rfl
  have hiff : w &&& 0x1F#32 = BitVec.ofNat 32 o.code ↔ opOf w = o.code := by
    rw [← ofNat_opOf]
    refine ⟨fun h => ?_, congrArg _⟩
    rw [← opOf_code o, ← h, opOf_ofNat (opOf_lt w)]
  rw [maskAndMatch_eq, and_or_eq_iff hcode hop, hiff]

end Sys2Proof

namespace Sys2Proof.Machine

open Sys2Proof.Safety

/-- A word survives the 64 bits of its write to CMD. -/
theorem setWidth_cmdWord (w : CmdWord) : (w.setWidth 64).setWidth 32 = w := by simp

/-- A word that is no command, written to CMD, raises its IllegalCommand in that step and changes nothing else. -/
theorem step_illegal_effect {w : CmdWord} {x : Illegal} {s : State} {rest : List BusEvent}
    (hx : decodeWord w = .error x) (hp : s.pending = .write 0x008#12 4 (w.setWidth 64) :: rest) :
    ∃ t, step s = .next t ∧ IllegalEffect (illegalError x).cause.toNat w s t ∧ t.pending = rest := by
  refine ⟨_, ?_, s.raiseIllegal_illegalEffect rest w x, rfl⟩
  rw [step_command (by decide) hp, setWidth_cmdWord, issue, hx]

end Sys2Proof.Machine

namespace Sys2Proof.Proofs

open Sys2Proof.Machine Sys2Proof.Safety

/-- Settles O2: OP is read back, no unused bit is set, and every field is read back. -/
theorem decodeGivesBackTheEncoded : Obligations.DecodeGivesBackTheEncoded := fun _ => decodeWord_encode

/-- Settles O4: a decoded command's fields are the word's, and the word has no other bit. -/
theorem encodeGivesBackTheDecoded : Obligations.EncodeGivesBackTheDecoded := by
  intro w i h
  obtain ⟨hop, hused, hinstr⟩ := decodeWord_ok_iff.mp h
  rw [← hinstr]
  exact ⟨wellFormed_instr _ w, (encode_instr hop).trans (and_eq_self_of_and_not_eq_zero hused)⟩

/-- Settles O5: both the decoder and the opcode table ask for the opcode's OP and for 0 in the bits it does not use. -/
theorem unusedBitsMakeAWordIllegal : Obligations.UnusedBitsMakeAWordIllegal := by
  refine ⟨fun o w => ?_, fun o w s rest hop hmatch hp => ?_⟩
  · rw [matches_iff]
    constructor
    · rintro ⟨i, hi, rfl⟩
      obtain ⟨hop, hused, -⟩ := decodeWord_ok_iff.mp hi
      exact ⟨hop, hused⟩
    · rintro ⟨hop, hused⟩
      have ho := o.instr_opcode w
      exact ⟨o.instr w, decodeWord_ok_iff.mpr (by rw [ho]; exact ⟨hop, hused, rfl⟩), ho⟩
  · rw [← opOf_eq_mod] at hop
    have hused : w &&& ~~~o.usedMask ≠ 0#32 := fun hused => hmatch (matches_iff.mpr ⟨hop, hused⟩)
    exact step_illegal_effect (decodeWord_unusedBits hop hused) hp

/-- Settles O6: the opcode map has no opcode at a reserved OP, and that is looked up before any other bit. -/
theorem reservedOpcodesAreIllegal : Obligations.ReservedOpcodesAreIllegal := by
  intro w s rest hop hp
  rw [← opOf_eq_mod] at hop
  have hnone : Opcode.ofCode? (opOf w) = none := (by decide : ∀ c ∈ _, Opcode.ofCode? c = none) _ hop
  exact step_illegal_effect (decodeWord_reservedOpcode hnone) hp

/-- Settles O1: the decoder, run on each of the nine words. -/
theorem workedEncodingsDecode : Obligations.WorkedEncodingsDecode := by
  unfold Obligations.WorkedEncodingsDecode
  decide

end Sys2Proof.Proofs
end

section
/-! The word of each command as a number (R80, R90): the fields from the lowest up, each above those before. -/

namespace Sys2Proof

/-- An opcode's bare code, as a number. -/
theorem Opcode.toNat_code (o : Opcode) : (BitVec.ofNat 32 o.code).toNat = o.code :=
  Nat.mod_eq_of_lt (o.code_lt.trans (by decide))

/-- OP, KIND, WC and N in a word. -/
theorem Opcode.toNat_kind_wc_n (o : Opcode) {kind wc n : Nat} (hkind : kind < 4) (hwc : wc < 8) (hn : n < 32) :
    (BitVec.ofNat 32 o.code ||| Field.kind.put kind ||| Field.wc.put wc ||| Field.n.put n).toNat =
      o.code + 2 ^ 5 * kind + 2 ^ 7 * wc + 2 ^ 10 * n := by
  have ho := o.code_lt
  exact Field.toNat_or_put .n (Field.toNat_or_put .wc (Field.toNat_or_put .kind o.toNat_code ho hkind)
    (show _ < 2 ^ 7 by omega) hwc) (show _ < 2 ^ 10 by omega) hn

/-- OP and WC in a word. -/
theorem Opcode.toNat_wc (o : Opcode) {wc : Nat} (hwc : wc < 8) :
    (BitVec.ofNat 32 o.code ||| Field.wc.put wc).toNat = o.code + 2 ^ 7 * wc :=
  Field.toNat_or_put .wc o.toNat_code (o.code_lt.trans (by decide)) hwc

/-- OP, WC and N in a word. -/
theorem Opcode.toNat_wc_n (o : Opcode) {wc n : Nat} (hwc : wc < 8) (hn : n < 32) :
    (BitVec.ofNat 32 o.code ||| (Field.wc.put wc ||| Field.n.put n)).toNat = o.code + 2 ^ 7 * wc + 2 ^ 10 * n := by
  have ho := o.code_lt
  rw [← BitVec.or_assoc]
  exact Field.toNat_or_put .n (o.toNat_wc hwc) (show _ < 2 ^ 10 by omega) hn

/-- OP, WC and REPR in a word. -/
theorem Opcode.toNat_wc_repr (o : Opcode) {wc repr : Nat} (hwc : wc < 8) (hrepr : repr < 4) :
    (BitVec.ofNat 32 o.code ||| (Field.wc.put wc ||| Field.repr.put repr)).toNat =
      o.code + 2 ^ 7 * wc + 2 ^ 15 * repr := by
  have ho := o.code_lt
  rw [← BitVec.or_assoc]
  exact Field.toNat_or_put .repr (o.toNat_wc hwc) (show _ < 2 ^ 15 by omega) hrepr

/-- OP and P in a word. -/
theorem Opcode.toNat_p (o : Opcode) {p : Nat} (hp : p < 128) :
    (BitVec.ofNat 32 o.code ||| Field.p.put p).toNat = o.code + 2 ^ 19 * p :=
  Field.toNat_or_put .p o.toNat_code (o.code_lt.trans (by decide)) hp

/-- BINDE's word, as a number (R80, R90). -/
theorem toNat_encode_binde {kind wc n repr : Nat} (hkind : kind < 4) (hwc : wc < 8) (hn : n < 32) (hrepr : repr < 4) :
    (encode (.binde kind wc n repr)).toNat = 0x01 + 2 ^ 5 * kind + 2 ^ 7 * wc + 2 ^ 10 * n + 2 ^ 15 * repr := by
  rw [encode, Instr.fieldBits, ← BitVec.or_assoc, ← BitVec.or_assoc, ← BitVec.or_assoc]
  exact Field.toNat_or_put .repr (Opcode.binde.toNat_kind_wc_n hkind hwc hn)
    (show Opcode.binde.code + _ + _ + _ < 2 ^ 15 by simp only [Opcode.code]; omega) hrepr

/-- BINDD's word, as a number (R80, R90). -/
theorem toNat_encode_bindd {kind wc n : Nat} (rf ru : Bool) (hkind : kind < 4) (hwc : wc < 8) (hn : n < 32) :
    (encode (.bindd kind wc n rf ru)).toNat =
      0x02 + 2 ^ 5 * kind + 2 ^ 7 * wc + 2 ^ 10 * n + 2 ^ 17 * rf.toNat + 2 ^ 18 * ru.toNat := by
  have hrf := rf.toNat_lt
  have hhead := Opcode.bindd.toNat_kind_wc_n hkind hwc hn
  rw [encode, Instr.fieldBits, ← BitVec.or_assoc, ← BitVec.or_assoc, ← BitVec.or_assoc, ← BitVec.or_assoc]
  exact Field.toNat_or_put .ru (Field.toNat_or_put .rf hhead
    (show Opcode.bindd.code + _ + _ + _ < 2 ^ 17 by simp only [Opcode.code]; omega) hrf)
    (show Opcode.bindd.code + _ + _ + _ + _ < 2 ^ 18 by simp only [Opcode.code]; omega) ru.toNat_lt

/-- SETB's word, as a number (R80, R90). -/
theorem toNat_encode_setb {p : Nat} (v : Bool) (hp : p < 128) :
    (encode (.setb p v)).toNat = 0x09 + 2 ^ 19 * p + 2 ^ 26 * v.toNat := by
  rw [encode, Instr.fieldBits, ← BitVec.or_assoc]
  exact Field.toNat_or_put .v (Opcode.setb.toNat_p hp)
    (show Opcode.setb.code + _ < 2 ^ 26 by simp only [Opcode.code]; omega) v.toNat_lt

end Sys2Proof

namespace Sys2Proof.Proofs

/-- Settles O3: each field stands above what is already in the word, so its value is added at its place. -/
theorem commandWordsAreBuiltFromTheirFields : Obligations.CommandWordsAreBuiltFromTheirFields := by
  intro kind wc n repr p hkind hwc hn hrepr hp rf ru v
  exact ⟨rfl, rfl, toNat_encode_binde hkind hwc hn hrepr, toNat_encode_bindd rf ru hkind hwc hn,
    Opcode.getb.toNat_p hp, toNat_encode_setb v hp, Opcode.graye.toNat_wc hwc, Opcode.grayd.toNat_wc hwc,
    Opcode.ordp.toNat_wc_repr hwc hrepr, Opcode.ordd.toNat_wc_repr hwc hrepr, Opcode.ilv.toNat_wc_n hwc hn,
    Opcode.dil.toNat_wc_n hwc hn, Opcode.rotf.toNat_wc_n hwc hn, Opcode.roti.toNat_wc_n hwc hn⟩

end Sys2Proof.Proofs
end

section
/-! The pseudo-instructions and the element types (R97): the steps that the lines of a statement take. -/

namespace Sys2Proof.Machine

open Sys2Proof.Safety

/-- A run of one step more. -/
theorem run_succ_of_step {s t : State} (k : Nat) (h : step s = .next t) : core.run (k + 1) s = core.run k t := by
  have hcore : core.step s = .next t := h
  simp only [Host.Core.run, hcore]

/-- A command's line, sent alone or before others, runs the command (R95, R96). -/
theorem step_cmdEvent {s : State} {rest : List BusEvent} {l : AsmLine} {i : Instr} (hl : l.assemble = encode i)
    (hi : i.wellFormed = true) (hp : s.pending = cmdEvent l :: rest) : step s = exec i (served s rest) := by
  rw [step_command (size := 8) (by decide) hp, setWidth_cmdWord, hl, issue, decodeWord_encode hi]

/-- Serving one more write to CMD leaves the bus fields as the one just served left them. -/
theorem served_withPending {s t : State} {rest p : List BusEvent} (h : SameBus (served s rest) t) :
    served (t.withPending p) rest = t := by
  obtain ⟨hpending, hreply⟩ := h
  cases t
  cases hpending
  cases hreply
  rfl

/-- A bind's line and EXEC, sent to a block with nothing pending, run the bind and EXEC in two steps. -/
theorem run_bind_exec {s t u : State} {l : AsmLine} {i : Instr} (hl : l.assemble = encode i)
    (hi : i.wellFormed = true) (ht : exec i (served s []) = .next t) (hu : exec .exec t = .next u) :
    core.run 2 { s with pending := [cmdEvent l, cmdEvent .exec] } = .next u := by
  obtain ⟨-, hbus⟩ := exec_keeps_nullm_bus ht
  have hbind : step { s with pending := [cmdEvent l, cmdEvent .exec] } = .next (t.withPending [cmdEvent .exec]) := by
    rw [step_cmdEvent hl hi rfl]
    exact (exec_withPending i (served s []) [cmdEvent .exec]).trans (by rw [ht]; rfl)
  have hexec : step (t.withPending [cmdEvent .exec]) = .next u := by
    rw [step_cmdEvent (i := .exec) rfl rfl rfl, served_withPending hbus, hu]
  exact (run_succ_of_step 1 hbind).trans (run_succ_of_step 0 hexec)

end Sys2Proof.Machine

namespace Sys2Proof.Proofs

open Sys2Proof.Machine Sys2Proof.Safety

/-- Settles O58: a codec pseudo-instruction is its bind's line and EXEC; CLRERR is one write to STATUS. -/
theorem pseudoInstructionsRunTheirCommands : Obligations.PseudoInstructionsRunTheirCommands := by
  refine ⟨by decide, fun s hp => ⟨fun w n r hw hn hr => ?_, fun c n rf ru hc hn => ?_, ?_⟩⟩
  · have hwf (kind : Nat) (hk : kind < 4) : (Instr.binde kind w.value n r.value).wellFormed = true :=
      decide_eq_true ⟨hk, hw, hn, hr⟩
    constructor <;> intro t u ht hu <;> rw [State.send, hp]
    · exact run_bind_exec rfl (hwf 0 (by decide)) ht hu
    · exact run_bind_exec rfl (hwf 1 (by decide)) ht hu
  · have hwf (kind : Nat) (hk : kind < 4) : (Instr.bindd kind c.value n rf ru).wellFormed = true :=
      decide_eq_true ⟨hk, hc, hn⟩
    constructor <;> intro t u ht hu <;> rw [State.send, hp]
    · exact run_bind_exec rfl (hwf 0 (by decide)) ht hu
    · exact run_bind_exec rfl (hwf 1 (by decide)) ht hu
  · rw [State.send, hp]
    have hclear : s.status.clearErrs true = { s.status with errs := false } := by simp [Status.clearErrs]
    obtain ⟨t, ht, hsame⟩ :=
      step_write_status (s := { s with pending := [wrEvent .status 0x10000] }) (by decide) (by decide) rfl
    rw [← hclear]
    exact ⟨t, run_succ_of_step 0 ht, hsame⟩

end Sys2Proof.Proofs
end

section
/-! The gray code (R110, R111): the decoder bit by bit, and the two maps as each other's inverse. -/

namespace Sys2Proof.Machine

/-- The exclusive or of the `n` bits of `f` from bit `k` on. -/
def xorRange (f : Nat → Bool) (k n : Nat) : Bool := ((List.range' k n).map f).foldl xor false

/-- A range of no bits. -/
@[simp] theorem xorRange_zero (f : Nat → Bool) (k : Nat) : xorRange f k 0 = false := rfl

/-- A range of one bit. -/
@[simp] theorem xorRange_one (f : Nat → Bool) (k : Nat) : xorRange f k 1 = f k := Bool.false_xor _

/-- A range cut in two. -/
theorem xorRange_add (f : Nat → Bool) (k m n : Nat) :
    xorRange f k (m + n) = (xorRange f k m ^^ xorRange f (k + m) n) := by
  simp only [xorRange, ← List.range'_append_1, List.map_append, List.foldl_append]
  rw [← List.foldl_assoc (op := xor), Bool.xor_false]

/-- Only the bits in the range matter. -/
theorem xorRange_congr {f g : Nat → Bool} {k n : Nat} (h : ∀ m, m < k + n → f m = g m) :
    xorRange f k n = xorRange g k n := by
  rw [xorRange, xorRange, List.map_congr_left fun m hm => h m (List.mem_range'_1.mp hm).2]

/-- A range that holds no 1. -/
theorem xorRange_eq_false {f : Nat → Bool} {k : Nat} (n : Nat) (h : ∀ m, k ≤ m → f m = false) :
    xorRange f k n = false := by
  induction n with
  | zero => rfl
  | succ n ih => rw [xorRange_add, ih, xorRange_one, h _ (Nat.le_add_right k n), Bool.false_xor]

/-- A range that ends above every 1 may as well end where they end. -/
theorem xorRange_eq_of_le {f : Nat → Bool} {k n w : Nat} (h : ∀ m, w ≤ m → f m = false) (hn : w ≤ k + n) :
    xorRange f k n = xorRange f k (w - k) := by
  have hsplit : n = (w - k) + (n - (w - k)) := by omega
  have hzero : xorRange f (k + (w - k)) (n - (w - k)) = false := xorRange_eq_false _ fun m hm => h m (by omega)
  rw [hsplit, xorRange_add, hzero, Bool.xor_false]

/-- A range of the differences of neighbouring bits telescopes. -/
theorem xorRange_differences (f : Nat → Bool) (k n : Nat) :
    xorRange (fun m => f m ^^ f (m + 1)) k n = (f k ^^ f (k + n)) := by
  induction n with
  | zero => simp
  | succ n ih => rw [xorRange_add, ih, xorRange_one, Bool.xor_assoc, ← Bool.xor_assoc (f (k + n)), Bool.xor_self,
      Bool.false_xor, Nat.add_assoc]

/-- The loop of R111: before a round with shift `s`, bit k is the exclusive or of the operand's `s` bits from k on; a
round doubles `s`, and the fuel lasts until `s` reaches the width. -/
theorem grayDecodeLoop_getLsbD {w : Nat} (x : BitVec w) (k : Nat) {fuel s : Nat} {y : BitVec w} (hs : 0 < s)
    (hfuel : w ≤ fuel + s) (hy : ∀ k, y.getLsbD k = xorRange x.getLsbD k s) :
    (grayDecodeLoop fuel s y).getLsbD k = xorRange x.getLsbD k (w - k) := by
  have hdone : ∀ {s}, w ≤ s → xorRange x.getLsbD k s = xorRange x.getLsbD k (w - k) := fun hle =>
    xorRange_eq_of_le (fun m => x.getLsbD_of_ge m) (by omega)
  induction fuel generalizing s y with
  | zero => rw [grayDecodeLoop, hy, hdone (by omega)]
  | succ fuel ih =>
    rw [grayDecodeLoop]
    split
    · refine ih (by omega) (by omega) fun k => ?_
      rw [BitVec.getLsbD_xor, BitVec.getLsbD_ushiftRight, hy, hy, Nat.two_mul, xorRange_add, Nat.add_comm s k]
    · rw [hy, hdone (by omega)]

/-- R111, bit by bit: bit k of the decoded value is the exclusive or of the operand's bits k to w−1. -/
theorem grayDecode_getLsbD {w : Nat} (x : BitVec w) (k : Nat) :
    (grayDecode x).getLsbD k = xorRange x.getLsbD k (w - k) :=
  grayDecodeLoop_getLsbD x k Nat.one_pos (Nat.le_succ w) fun k => (xorRange_one x.getLsbD k).symm

/-- R121: decoding undoes encoding, since the differences telescope. -/
theorem grayDecode_grayEncode {w : Nat} (x : BitVec w) : grayDecode (grayEncode x) = x := by
  refine BitVec.eq_of_getLsbD_eq fun k hk => ?_
  rw [grayDecode_getLsbD, funext (grayEncode_getLsbD x), xorRange_differences,
    Nat.add_sub_cancel' (Nat.le_of_lt hk), x.getLsbD_of_ge w (Nat.le_refl w), Bool.xor_false]

/-- R121: encoding undoes decoding, since the ranges of neighbouring bits differ in one bit. -/
theorem grayEncode_grayDecode {w : Nat} (x : BitVec w) : grayEncode (grayDecode x) = x := by
  refine BitVec.eq_of_getLsbD_eq fun k hk => ?_
  have hlen : w - k = 1 + (w - (k + 1)) := by omega
  rw [grayEncode_getLsbD, grayDecode_getLsbD, grayDecode_getLsbD, hlen, xorRange_add, xorRange_one, Bool.xor_assoc,
    Bool.xor_self, Bool.xor_false]

end Sys2Proof.Machine

namespace Sys2Proof.Proofs

open Sys2Proof.Machine

/-- Settles O47. -/
theorem grayCodesAreInverse : Obligations.GrayCodesAreInverse :=
  fun _ x => ⟨grayDecode_grayEncode x, grayEncode_grayDecode x⟩

end Sys2Proof.Proofs
end

section
/-! The ordered map (R113, R114): which bits each direction flips, the two directions as each other's inverse, and the
order promotion keeps. -/

namespace Sys2Proof.Machine

open Sys2Proof.Safety

/-- What the two ordered maps share (R113, R114): UINT is kept, SINT has its top bit flipped, and so has FLOAT unless the
pattern is inverted whole. -/
def ordMap {w : Nat} (r : ElemRepr) (whole : Bool) (u : BitVec w) : BitVec w :=
  match r with
  | .uint => u
  | .sint => u ^^^ BitVec.twoPow w (w - 1)
  | .float => if whole then ~~~u else u ^^^ BitVec.twoPow w (w - 1)

/-- Promotion inverts whole the FLOAT patterns whose top bit is 1 (R113). -/
theorem ordPromote_eq_ordMap {w : Nat} (r : ElemRepr) (u : BitVec w) :
    ordPromote r u = ordMap r (u.getLsbD (w - 1)) u := by
  cases r with
  | uint => rfl
  | sint => rfl
  | float => simp only [ordPromote, ordMap, ite_not, ← Bool.not_eq_true]

/-- Demotion inverts whole the FLOAT patterns whose top bit is 0 (R114). -/
theorem ordDemote_eq_ordMap {w : Nat} (r : ElemRepr) (u : BitVec w) :
    ordDemote r u = ordMap r (!u.getLsbD (w - 1)) u := by
  cases r with
  | uint => rfl
  | sint => rfl
  | float => simp only [ordDemote, ordMap, Bool.not_eq_true', ← Bool.not_eq_true, ite_not]

/-- Whether a map of the representation with code `repr` flips bit `k` of a `w`-bit pattern. -/
def ordFlips (repr w : Nat) (whole : Bool) (k : Nat) : Bool :=
  (decide (repr ≥ 1) && decide (k = w - 1)) || (decide (repr = 2) && whole)

/-- An ordered map, bit by bit. -/
theorem ordMap_getLsbD {w : Nat} (r : ElemRepr) (whole : Bool) (u : BitVec w) {k : Nat} (hk : k < w) :
    (ordMap r whole u).getLsbD k = (u.getLsbD k ^^ ordFlips r.code.toNat w whole k) := by
  have htop : (u ^^^ BitVec.twoPow w (w - 1)).getLsbD k = (u.getLsbD k ^^ decide (k = w - 1)) := by
    rw [BitVec.getLsbD_xor, BitVec.getLsbD_twoPow, decide_eq_true (by omega), Bool.true_and,
      decide_eq_decide.mpr eq_comm]
  cases r with
  | uint => exact (Bool.xor_false _).symm
  | sint => exact htop.trans (by simp [ordFlips, ElemRepr.code])
  | float =>
    cases whole with
    | true => exact (BitVec.getLsbD_not).trans (by simp [ordFlips, ElemRepr.code, hk])
    | false => exact htop.trans (by simp [ordFlips, ElemRepr.code])

/-- The same map twice flips the same bits twice. -/
theorem ordMap_ordMap {w : Nat} (r : ElemRepr) (u : BitVec w) (whole : Bool) :
    ordMap r whole (ordMap r whole u) = u := by
  refine BitVec.eq_of_getLsbD_eq fun k hk => ?_
  rw [ordMap_getLsbD _ _ _ hk, ordMap_getLsbD _ _ _ hk, Bool.xor_assoc, Bool.xor_self, Bool.xor_false]

/-- Only FLOAT patterns are inverted whole. -/
theorem ordMap_congr {w : Nat} {r : ElemRepr} {a b : Bool} (u : BitVec w) (h : r = .float → a = b) :
    ordMap r a u = ordMap r b u := by
  cases r with
  | uint => rfl
  | sint => rfl
  | float => rw [h rfl]

/-- Either way, the top bit of a FLOAT pattern is flipped. -/
theorem ordMap_float_top {w : Nat} (hw : 0 < w) (whole : Bool) (u : BitVec w) :
    (ordMap .float whole u).getLsbD (w - 1) = !u.getLsbD (w - 1) := by
  rw [ordMap_getLsbD _ _ _ (Nat.sub_one_lt_of_lt hw)]
  simp [ordFlips, ElemRepr.code]

/-- R122: demotion undoes promotion. The flipped top bit tells it which FLOAT patterns were inverted whole. -/
theorem ordDemote_ordPromote {w : Nat} (r : ElemRepr) (u : BitVec w) : ordDemote r (ordPromote r u) = u := by
  rcases Nat.eq_zero_or_pos w with rfl | hw
  · exact Subsingleton.elim _ _
  rw [ordDemote_eq_ordMap, ordPromote_eq_ordMap, ordMap_congr (b := u.getLsbD (w - 1)), ordMap_ordMap]
  rintro rfl
  rw [ordMap_float_top hw, Bool.not_not]

/-- R122: promotion undoes demotion. -/
theorem ordPromote_ordDemote {w : Nat} (r : ElemRepr) (u : BitVec w) : ordPromote r (ordDemote r u) = u := by
  rcases Nat.eq_zero_or_pos w with rfl | hw
  · exact Subsingleton.elim _ _
  rw [ordDemote_eq_ordMap, ordPromote_eq_ordMap, ordMap_congr (b := !u.getLsbD (w - 1)), ordMap_ordMap]
  rintro rfl
  exact ordMap_float_top hw _ u

/-- Flipping the top bit is adding its weight, since the carry out of it is lost. -/
theorem xor_top_eq_add {w : Nat} (hw : 0 < w) (u : BitVec w) :
    u ^^^ BitVec.twoPow w (w - 1) = u + BitVec.twoPow w (w - 1) := by
  refine BitVec.eq_of_getLsbD_eq fun k hk => ?_
  have hadd : (u + BitVec.twoPow w (w - 1)).getLsbD k = (2 ^ (w - 1) + u.toNat).testBit k := by
    rw [BitVec.getLsbD, BitVec.toNat_add, BitVec.toNat_twoPow_of_lt (Nat.sub_one_lt_of_lt hw), Nat.testBit_mod_two_pow,
      decide_eq_true hk, Bool.true_and, Nat.add_comm]
  rw [hadd, BitVec.getLsbD_xor, BitVec.getLsbD_twoPow, decide_eq_true (Nat.sub_one_lt_of_lt hw), Bool.true_and]
  by_cases htop : w - 1 = k
  · rw [decide_eq_true htop, Bool.xor_true, htop, Nat.testBit_two_pow_add_eq]; rfl
  · rw [decide_eq_false htop, Bool.xor_false, Nat.testBit_two_pow_add_gt (by omega)]; rfl

/-- Flipping the top bit, as a number: its weight is added to a pattern without it, and taken from one with it. -/
theorem toNat_xor_top {w : Nat} (hw : 0 < w) (u : BitVec w) :
    (u ^^^ BitVec.twoPow w (w - 1)).toNat =
      if 2 ^ (w - 1) ≤ u.toNat then u.toNat - 2 ^ (w - 1) else u.toNat + 2 ^ (w - 1) := by
  have hpow := Nat.two_pow_pred_add_two_pow_pred hw
  have hlt := u.isLt
  rw [xor_top_eq_add hw, BitVec.toNat_add, BitVec.toNat_twoPow_of_lt (Nat.sub_one_lt_of_lt hw)]
  split
  · rw [Nat.mod_eq_sub_mod (by omega), Nat.mod_eq_of_lt (by omega)]; omega
  · exact Nat.mod_eq_of_lt (by omega)

/-- A promoted SINT pattern is its two's-complement value, moved up to start at 0 (R113). -/
theorem toNat_ordPromote_sint {w : Nat} (hw : 0 < w) (u : BitVec w) :
    ((ordPromote .sint u).toNat : Int) = u.toInt + (2 ^ (w - 1) : Nat) := by
  have hpow := Nat.two_pow_pred_add_two_pow_pred hw
  rw [ordPromote, toNat_xor_top hw, BitVec.toInt_eq_toNat_cond]
  split <;> split <;> omega

/-- A promoted FLOAT pattern is its place in the sign-magnitude order, moved up to start at 0 (R113). -/
theorem toNat_ordPromote_float {w : Nat} (hw : 0 < w) (u : BitVec w) :
    ((ordPromote .float u).toNat : Int) = signMagnitude u + (2 ^ (w - 1) : Nat) := by
  have hpow := Nat.two_pow_pred_add_two_pow_pred hw
  have hlt := u.isLt
  simp only [ordPromote, signMagnitude, BitVec.getLsbD_last]
  by_cases htop : 2 ^ (w - 1) ≤ u.toNat
  · have hmod : u.toNat % 2 ^ (w - 1) = u.toNat - 2 ^ (w - 1) := by
      rw [Nat.mod_eq_sub_mod htop, Nat.mod_eq_of_lt (by omega)]
    simp only [htop, decide_true, if_true, hmod, Bool.true_eq_false, if_false, BitVec.toNat_not]
    omega
  · simp only [htop, decide_false, if_true, Bool.false_eq_true, if_false, toNat_xor_top hw,
      Nat.mod_eq_of_lt (Nat.lt_of_not_le htop)]
    omega

end Sys2Proof.Machine

namespace Sys2Proof.Proofs

open Sys2Proof.Machine

/-- Settles O48. -/
theorem orderedMapsAreInverse : Obligations.OrderedMapsAreInverse :=
  fun _ r u => ⟨ordDemote_ordPromote r u, ordPromote_ordDemote r u⟩

/-- Settles O49: a promoted pattern is a number that differs from the pattern's place in its order by a constant. -/
theorem promotionIsMonotone : Obligations.PromotionIsMonotone := by
  intro w a b hw
  rw [BitVec.le_def, BitVec.le_def]
  have hsa := toNat_ordPromote_sint hw a
  have hsb := toNat_ordPromote_sint hw b
  have hfa := toNat_ordPromote_float hw a
  have hfb := toNat_ordPromote_float hw b
  omega

end Sys2Proof.Proofs
end

section
/-! The bit primitives (R115 to R120): what their operand checks give, and the two ways a command that writes CW ends. -/

namespace Sys2Proof.Machine

open Sys2Proof.Safety

/-- The lane width of a width code (R83). -/
theorem LaneWidth.ofCode?_of_code {wc W : Nat} (h : LaneWidthCode wc W) :
    ∃ w : LaneWidth, LaneWidth.ofCode? wc = some w ∧ w.bits = W := by
  rcases h with ⟨rfl, rfl⟩ | ⟨rfl, rfl⟩ | ⟨rfl, rfl⟩ | ⟨rfl, rfl⟩ <;> exact ⟨_, rfl, rfl⟩

/-- No lane width has a width code above 3 (R83). -/
theorem LaneWidth.ofCode?_eq_none {wc : Nat} (h : wc > 3) : LaneWidth.ofCode? wc = none := by
  obtain ⟨k, rfl⟩ := Nat.exists_eq_add_of_le' h
  rfl

/-- Every width code up to 3 is that of a lane width (R83). -/
theorem LaneWidth.ofCode?_of_le {wc : Nat} (h : wc ≤ 3) : ∃ w : LaneWidth, LaneWidth.ofCode? wc = some w := by
  obtain rfl | rfl | rfl | rfl : wc = 0 ∨ wc = 1 ∨ wc = 2 ∨ wc = 3 := by omega
  all_goals exact ⟨_, rfl⟩

/-- The lane widths with a float type, by their bits (R8, R195). -/
theorem LaneWidth.isFloat_of_bits {w : LaneWidth} (h : w.bits = 32 ∨ w.bits = 64) : w.isFloat = true := by
  cases w <;> revert h <;> decide

/-- A lane is at most as wide as its register (R8, R23). -/
theorem LaneWidth.bits_le (w : LaneWidth) : w.bits ≤ 64 := by cases w <;> decide

/-- A code word is at most as wide as CW (R8, R22). -/
theorem CodeWidth.bits_le (c : CodeWidth) : c.bits ≤ 128 := by cases c <;> decide

/-- Every representation code up to 2 is that of a representation (R85). -/
theorem ElemRepr.ofCode?_of_le {repr : Nat} (h : repr ≤ 2) :
    ∃ r : ElemRepr, ElemRepr.ofCode? repr = some r ∧ r.code.toNat = repr := by
  obtain rfl | rfl | rfl : repr = 0 ∨ repr = 1 ∨ repr = 2 := by omega
  all_goals exact ⟨_, rfl, rfl⟩

/-- No representation has a code above 2 (R85). -/
theorem ElemRepr.ofCode?_eq_none {repr : Nat} (h : repr ≥ 3) : ElemRepr.ofCode? repr = none := by
  obtain ⟨k, rfl⟩ := Nat.exists_eq_add_of_le' h
  rfl

/-- The width GRAYE and GRAYD take from their code (R117, R118). -/
theorem grayWidth_of_code {wc w : Nat} (h : WidthCode wc w) : ∃ c : CodeWidth, grayWidth wc = .ok c ∧ c.bits = w := by
  rcases h with (⟨rfl, rfl⟩ | ⟨rfl, rfl⟩ | ⟨rfl, rfl⟩ | ⟨rfl, rfl⟩) | ⟨rfl, rfl⟩ <;> exact ⟨_, rfl, rfl⟩

/-- GRAYE and GRAYD reject the codes above 4 (R117, R118). -/
theorem grayWidth_of_gt {wc : Nat} (h : wc > 4) : grayWidth wc = .error .widthCode := by
  obtain ⟨k, rfl⟩ := Nat.exists_eq_add_of_le' h
  rfl

/-- ORDP and ORDD accept every representation at every lane width, but FLOAT at 32 and 64 bits only (R119). -/
theorem ordOperands_of_code {wc repr W : Nat} (hW : LaneWidthCode wc W) (hrepr : repr ≤ 2)
    (hfloat : repr = 2 → W = 32 ∨ W = 64) :
    ∃ (w : LaneWidth) (r : ElemRepr), ordOperands wc repr = .ok (w, r) ∧ w.bits = W ∧ r.code.toNat = repr := by
  obtain ⟨w, hw, rfl⟩ := LaneWidth.ofCode?_of_code hW
  obtain ⟨r, hr, rfl⟩ := ElemRepr.ofCode?_of_le hrepr
  have hfits : r.fits w = true := by
    cases r with
    | uint => rfl
    | sint => rfl
    | float => exact LaneWidth.isFloat_of_bits (hfloat rfl)
  exact ⟨w, r, by simp only [ordOperands, hw, hr, hfits, if_true], rfl, rfl⟩

/-- The first check of ORDP and ORDD (R119, R234). -/
theorem ordOperands_widthCode {wc : Nat} (repr : Nat) (h : wc > 3) : ordOperands wc repr = .error .widthCode := by
  rw [ordOperands, LaneWidth.ofCode?_eq_none h]

/-- The second check of ORDP and ORDD (R119, R234). -/
theorem ordOperands_reprCode {wc repr : Nat} (h : wc ≤ 3) (hrepr : repr ≥ 3) :
    ordOperands wc repr = .error .reprCode := by
  obtain ⟨w, hw⟩ := LaneWidth.ofCode?_of_le h
  simp only [ordOperands, hw, ElemRepr.ofCode?_eq_none hrepr]

/-- The third check of ORDP and ORDD (R119, R234). -/
theorem ordOperands_floatWidth {wc : Nat} (h : wc ≤ 1) : ordOperands wc 2 = .error .floatWidth := by
  obtain rfl | rfl : wc = 0 ∨ wc = 1 := by omega
  all_goals rfl

/-- A command whose checks give its operands completes with its effect (R235, R236). -/
theorem finish_map_ok {α : Type} {x : Except CmdError α} {a : α} (i : Instr) (s : State) (f : α → State)
    (h : x = .ok a) : finish i s (x.map f) = .next (f a).complete := by rw [h]; rfl

/-- A command one of whose checks fails raises in the state it began in (R232, R235). -/
theorem finish_map_error {α : Type} {x : Except CmdError α} {e : CmdError} (i : Instr) (s : State) (f : α → State)
    (h : x = .error e) : finish i s (x.map f) = .next (s.raise i e) := by rw [h]; rfl

/-- A raise by a command other than a bind and EXEC changes nothing but what R232 records. -/
theorem rejected_of_raise {i : Instr} {s : State} {e : CmdError} (h : exec i s = .next (s.raise i e))
    (hbinde : i.opcode ≠ .binde) (hbindd : i.opcode ≠ .bindd) (hexec : i ≠ .exec) :
    Rejected i e.cls.code.toNat e.cause.toNat s := by
  obtain ⟨herr, hcause, herrs, hecmd⟩ := s.raise_records i e
  obtain ⟨hcw, hlanes, hnullm, hpending, hreply, hbitv⟩ := s.raise_frame i e
  obtain ⟨hdesc, hbound⟩ := s.raise_binding e hbinde hbindd
  exact ⟨_, h, ⟨congrArg _ herr, congrArg _ hcause, herrs, hecmd⟩, ⟨hcw, hlanes⟩, ⟨hdesc, hbound, hnullm⟩,
    ⟨s.raise_onull e hexec, hbitv⟩, hpending, hreply⟩

/-- The checks of a command that takes its operands from `ordOperands` (R119, R234). -/
theorem ordChecks_of_rejected {c : Nat → Nat → Instr}
    (h : ∀ {wc repr e} (s : State), ordOperands wc repr = .error e →
      Rejected (c wc repr) e.cls.code.toNat e.cause.toNat s) : OrdChecks c :=
  fun _ repr s => ⟨fun hwc => h s (ordOperands_widthCode repr hwc),
    fun hwc hrepr => h s (ordOperands_reprCode hwc hrepr), fun hwc hrepr => hrepr ▸ h s (ordOperands_floatWidth hwc)⟩

/-- A command that writes CW and completes changes no other register but ERR and CAUSE (R236). -/
theorem onlyCw_writeCw (s : State) (v : CodeWord) : OnlyCw s (s.writeCw v).complete :=
  ⟨rfl, ⟨rfl, rfl, rfl⟩, ⟨rfl, rfl⟩, ⟨rfl, rfl, rfl, rfl⟩, rfl, rfl⟩

/-- A value no wider than CW has the same bits when zero-extended to it. -/
theorem getLsbD_setWidth_codeWord {w : Nat} (hw : w ≤ 128) (v : BitVec w) (k : Nat) :
    (v.setWidth 128).getLsbD k = v.getLsbD k := by
  rw [BitVec.getLsbD_setWidth, Bool.and_eq_right_iff_imp, decide_eq_true_eq]
  exact fun h => (BitVec.lt_of_getLsbD h).trans_le hw

/-- An operand taken from the low bits of CW. -/
theorem getLsbD_lowBits {w k : Nat} (x : CodeWord) (hk : k < w) : (x.setWidth w).getLsbD k = x.getLsbD k := by
  rw [BitVec.getLsbD_setWidth, decide_eq_true hk, Bool.true_and]

/-- What a command does that writes a `w`-bit result to CW: its bits below `w`, zeros above, and nothing else. -/
theorem exec_writes_lowBits {i : Instr} {s : State} {w : Nat} {v : BitVec w} {f : Nat → Bool} (hw : w ≤ 128)
    (h : exec i s = .next (s.writeCw (v.setWidth 128)).complete) (hbits : ∀ k, k < w → v.getLsbD k = f k) :
    ∃ t, exec i s = .next t ∧ (∀ k, k < w → t.cw.getLsbD k = f k) ∧ (∀ k, w ≤ k → t.cw.getLsbD k = false) ∧
      OnlyCw s t :=
  ⟨_, h, fun k hk => (getLsbD_setWidth_codeWord hw v k).trans (hbits k hk),
    fun k hk => (getLsbD_setWidth_codeWord hw v k).trans (v.getLsbD_of_ge k hk), onlyCw_writeCw s _⟩

/-- ORDP on operands that pass its checks (R119). -/
theorem exec_ordp {wc repr : Nat} {w : LaneWidth} {r : ElemRepr} (s : State) (h : ordOperands wc repr = .ok (w, r)) :
    exec (.ordp wc repr) s =
      .next (s.writeCw ((ordPromote r (s.cw.setWidth w.bits)).setWidth 128)).complete := finish_map_ok _ s _ h

/-- ORDD on operands that pass its checks (R120). -/
theorem exec_ordd {wc repr : Nat} {w : LaneWidth} {r : ElemRepr} (s : State) (h : ordOperands wc repr = .ok (w, r)) :
    exec (.ordd wc repr) s =
      .next (s.writeCw ((ordDemote r (s.cw.setWidth w.bits)).setWidth 128)).complete := finish_map_ok _ s _ h

/-- The value SETB writes, bit by bit (R116). -/
theorem setb_getLsbD (x : CodeWord) {p k : Nat} (v : Bool) (hp : p < 128) (hk : k < 128) :
    ((x &&& ~~~BitVec.twoPow 128 p) ||| ((BitVec.ofBool v).setWidth 128 <<< p)).getLsbD k =
      if k = p then v else x.getLsbD k := by
  have hmask : (x &&& ~~~BitVec.twoPow 128 p).getLsbD k = (x.getLsbD k && !decide (p = k)) := by
    rw [BitVec.getLsbD_and, BitVec.getLsbD_not, BitVec.getLsbD_twoPow, decide_eq_true hp, decide_eq_true hk,
      Bool.true_and, Bool.true_and]
  have hplace : (!decide (k < p) && decide (k - p = 0)) = decide (p = k) := by
    rw [← decide_not, ← Bool.decide_and, decide_eq_decide]
    omega
  have hbit : ((BitVec.ofBool v).setWidth 128 <<< p).getLsbD k = (decide (p = k) && v) := by
    rw [BitVec.getLsbD_shiftLeft, getLsbD_setWidth_codeWord (by decide), BitVec.getLsbD_ofBool, decide_eq_true hk,
      Bool.true_and, ← Bool.and_assoc, hplace]
  rw [BitVec.getLsbD_or, hmask, hbit]
  by_cases h : k = p
  · simp [h]
  · simp [h, Ne.symm h]

end Sys2Proof.Machine

namespace Sys2Proof.Proofs

open Sys2Proof.Machine Sys2Proof.Safety

/-- Settles O25: GETB's one write is to BITV. -/
theorem getbReadsOneBit : Obligations.GetbReadsOneBit :=
  fun _ _ => ⟨_, rfl, rfl, ⟨rfl, rfl⟩, ⟨rfl, rfl, rfl⟩, rfl, ⟨rfl, rfl, rfl, rfl⟩, rfl, rfl⟩

/-- Settles O26: the mask clears bit P alone, and the shifted V fills it. -/
theorem setbWritesOneBit : Obligations.SetbWritesOneBit :=
  fun _ v s hp => ⟨_, rfl, fun _ hk => setb_getLsbD s.cw v hp hk, onlyCw_writeCw s _⟩

/-- Settles O27: the encoder, bit by bit, on the low bits of CW. -/
theorem grayeEncodesTheLowBits : Obligations.GrayeEncodesTheLowBits := by
  refine ⟨fun wc w s hw => ?_, fun wc s hwc =>
    rejected_of_raise (e := .widthCode) (finish_map_error _ s _ (grayWidth_of_gt hwc)) nofun nofun nofun⟩
  obtain ⟨c, hc, rfl⟩ := grayWidth_of_code hw
  refine exec_writes_lowBits c.bits_le (finish_map_ok _ s _ hc) fun k hk => ?_
  rw [grayEncode_getLsbD, getLsbD_lowBits _ hk, BitVec.getLsbD_setWidth]

/-- Settles O28: the decoder, bit by bit, on the low bits of CW. -/
theorem graydDecodesTheLowBits : Obligations.GraydDecodesTheLowBits := by
  refine ⟨fun wc w s hw => ?_, fun wc s hwc =>
    rejected_of_raise (e := .widthCode) (finish_map_error _ s _ (grayWidth_of_gt hwc)) nofun nofun nofun⟩
  obtain ⟨c, hc, rfl⟩ := grayWidth_of_code hw
  refine exec_writes_lowBits c.bits_le (finish_map_ok _ s _ hc) fun k hk => ?_
  exact (grayDecode_getLsbD _ k).trans (xorRange_congr fun m hm => getLsbD_lowBits _ (by omega))

/-- Settles O29: promotion, bit by bit, on the low bits of CW, and the checks of `ordOperands`. -/
theorem ordpPromotesTheLowBits : Obligations.OrdpPromotesTheLowBits := by
  refine ⟨fun wc repr W s hW hrepr hfloat => ?_, ordChecks_of_rejected fun s he =>
    rejected_of_raise (finish_map_error _ s _ he) nofun nofun nofun⟩
  obtain ⟨w, r, hok, rfl, rfl⟩ := ordOperands_of_code hW hrepr hfloat
  refine exec_writes_lowBits (w.bits_le.trans (by decide)) (exec_ordp s hok) fun k hk => ?_
  rw [ordPromote_eq_ordMap, ordMap_getLsbD _ _ _ hk, getLsbD_lowBits _ hk, getLsbD_lowBits _ (by omega), ordFlips]

/-- Settles O30: demotion, bit by bit; after ORDP its operand is the promoted pattern, which it undoes. -/
theorem orddDemotesTheLowBits : Obligations.OrddDemotesTheLowBits := by
  refine ⟨fun wc repr W s hW hrepr hfloat => ?_, fun wc repr W s hW hrepr hfloat => ?_,
    ordChecks_of_rejected fun s he => rejected_of_raise (finish_map_error _ s _ he) nofun nofun nofun⟩
  all_goals
    obtain ⟨w, r, hok, rfl, rfl⟩ := ordOperands_of_code hW hrepr hfloat
    have hw : w.bits ≤ 128 := w.bits_le.trans (by decide)
  · refine exec_writes_lowBits hw (exec_ordd s hok) fun k hk => ?_
    rw [ordDemote_eq_ordMap, ordMap_getLsbD _ _ _ hk, getLsbD_lowBits _ hk, getLsbD_lowBits _ (by omega), ordFlips]
  · refine ⟨_, _, exec_ordp s hok, exec_ordd _ hok, fun k => ?_⟩
    rw [State.complete_cw, State.writeCw_cw, State.complete_cw, State.writeCw_cw, BitVec.setWidth_setWidth_of_le _ hw,
      BitVec.setWidth_eq, ordDemote_ordPromote, getLsbD_setWidth_codeWord hw, BitVec.getLsbD_setWidth]

end Sys2Proof.Proofs
end

section
/-! The interleave engine (R140, R141, R145): every code bit is one bit of one lane. -/

namespace Sys2Proof.Machine

/-- Two tuples with the same bits in every lane are equal. -/
theorem lanes_eq_of_getLsbD_eq {W N : Nat} {L M : Lanes W N}
    (h : ∀ (j : Fin N) (i : Nat), i < W → (L.get j).getLsbD i = (M.get j).getLsbD i) : L = M :=
  Vector.ext fun j hj => BitVec.eq_of_getLsbD_eq (h ⟨j, hj⟩)

/-- Bit `i` of lane `j` stands within the code (R140). -/
theorem lane_position_lt {W N i : Nat} (hi : i < W) (j : Fin N) : i * N + (N - 1 - j.val) < W * N := by
  have hle : (i + 1) * N ≤ W * N := Nat.mul_le_mul_right N hi
  have hj := j.isLt
  rw [Nat.succ_mul] at hle
  omega

/-- Every position of the code is that of bit `i` of lane `j` for some `i` and `j` (R140). -/
theorem exists_lane_position {W N p : Nat} (hp : p < W * N) :
    ∃ i < W, ∃ j : Fin N, p = i * N + (N - 1 - j.val) := by
  have hN : 0 < N := Nat.pos_of_lt_mul_left hp
  have hmod : p % N < N := Nat.mod_lt p hN
  refine ⟨p / N, Nat.div_lt_of_lt_mul (Nat.mul_comm W N ▸ hp), ⟨N - 1 - p % N, by omega⟩, ?_⟩
  rw [Nat.sub_sub_self (Nat.le_sub_one_of_lt hmod), Nat.div_add_mod']

/-- R145: deinterleaving undoes interleaving. -/
theorem deinterleave_interleave {W N : Nat} (L : Lanes W N) : deinterleave (interleave L) = L :=
  lanes_eq_of_getLsbD_eq fun j i hi => by
    rw [deinterleave_getLsbD, interleave_getLsbD L i hi j, decide_eq_true hi, Bool.true_and]

/-- R145: interleaving undoes deinterleaving. -/
theorem interleave_deinterleave {W N : Nat} (Z : BitVec (W * N)) : interleave (deinterleave Z : Lanes W N) = Z := by
  refine BitVec.eq_of_getLsbD_eq fun p hp => ?_
  obtain ⟨i, hi, j, rfl⟩ := exists_lane_position hp
  rw [interleave_getLsbD _ i hi j, deinterleave_getLsbD, decide_eq_true hi, Bool.true_and]

end Sys2Proof.Machine

namespace Sys2Proof.Proofs

open Sys2Proof.Machine

/-- Settles O50. -/
theorem interleaveIsABijection : Obligations.InterleaveIsABijection :=
  fun _ _ L Z => ⟨deinterleave_interleave L, interleave_deinterleave Z⟩

end Sys2Proof.Proofs
end

section
/-! The commands on a tuple of lanes (R143, R144): what their operand checks give, the way a command that writes lanes
ends, and the commands of the interleave engine. -/

namespace Sys2Proof.Machine

open Sys2Proof.Safety

/-- The code of a lane shape fits CW (R8, R22). -/
theorem LaneShape.codeBits_le (sh : LaneShape) : sh.W * sh.n ≤ 128 := Nat.mul_comm sh.n sh.W ▸ sh.fits

/-- The lane commands accept every admissible pair (R8, R143). -/
theorem laneShape_of_operands {wc n W : Nat} (h : LaneOperands wc n W) :
    ∃ sh : LaneShape, laneShape wc n = .ok sh ∧ sh.n = n ∧ sh.W = W := by
  obtain ⟨hcode, hone, hmax, hfits⟩ := h
  obtain ⟨w, hw, rfl⟩ := LaneWidth.ofCode?_of_code hcode
  exact ⟨⟨w, n, hone, hmax, hfits⟩, (laneShape_ok_iff wc n _).mpr ⟨hw, rfl⟩, rfl, rfl⟩

/-- The first lane check (R143, R234). -/
theorem laneShape_widthCode {wc : Nat} (n : Nat) (h : wc > 3) : laneShape wc n = .error .widthCode :=
  (laneShape_error_iff wc n _).mpr (.inl ⟨LaneWidth.ofCode?_eq_none h, rfl⟩)

/-- The second lane check (R143, R234). -/
theorem laneShape_laneCount {wc n : Nat} (h : wc ≤ 3) (hn : n < 1 ∨ n > 16) : laneShape wc n = .error .laneCount := by
  obtain ⟨w, hw⟩ := LaneWidth.ofCode?_of_le h
  exact (laneShape_error_iff wc n _).mpr (.inr (.inl ⟨w, hw, hn, rfl⟩))

/-- The third lane check (R143, R234). -/
theorem laneShape_tupleWidth {wc n W : Nat} (h : LaneWidthCode wc W) (hone : 1 ≤ n) (hmax : n ≤ 16)
    (hwide : n * W > 128) : laneShape wc n = .error .tupleWidth := by
  obtain ⟨w, hw, rfl⟩ := LaneWidth.ofCode?_of_code h
  exact (laneShape_error_iff wc n _).mpr (.inr (.inr ⟨w, hw, by omega, hwide, rfl⟩))

/-- The checks of a command that takes its operands from `laneShape` (R143, R234). -/
theorem laneChecks_of_rejected {c : Nat → Nat → Instr}
    (h : ∀ {wc n e} (s : State), laneShape wc n = .error e → Rejected (c wc n) e.cls.code.toNat e.cause.toNat s) :
    LaneChecks c :=
  fun _ n s => ⟨fun hwc => h s (laneShape_widthCode n hwc), fun hwc hn => h s (laneShape_laneCount hwc hn),
    fun _ hW hone hmax hwide => h s (laneShape_tupleWidth hW hone hmax hwide)⟩

/-- A command that writes lanes below N alone and completes changes no other register but ERR and CAUSE (R23, R236). -/
theorem onlyLanes_complete {n : Nat} (s : State) (lanes : Vector Reg64 16)
    (h : ∀ j : Fin 16, n ≤ j.val → lanes[j.val] = s.lanes[j.val]) :
    OnlyLanes n s (State.complete { s with lanes := lanes }) :=
  ⟨rfl, h, ⟨rfl, rfl, rfl⟩, ⟨rfl, rfl⟩, ⟨rfl, rfl, rfl, rfl⟩, rfl, rfl⟩

/-- What a command does that writes a tuple to the lanes: each lane zero-extended, and nothing else (R23, R25). -/
theorem exec_writes_lanes {i : Instr} {s : State} {sh : LaneShape} {L : Lanes sh.W sh.n}
    (h : exec i s = .next (s.writeLanes sh L).complete) :
    ∃ t, exec i s = .next t ∧
      (∀ (j : Fin 16) (hj : j.val < sh.n), t.lanes[j.val] = (L.get ⟨j.val, hj⟩).setWidth 64) ∧ OnlyLanes sh.n s t :=
  ⟨_, h, s.writeLanes_get_lt sh L, onlyLanes_complete s _ (s.writeLanes_get_ge sh L)⟩

/-- ILV on operands that pass its checks (R143). -/
theorem exec_ilv {wc n : Nat} {sh : LaneShape} (s : State) (h : laneShape wc n = .ok sh) :
    exec (.ilv wc n) s = .next (s.writeCw ((interleave (s.readLanes sh)).setWidth 128)).complete := finish_map_ok _ s _ h

/-- DIL on operands that pass its checks (R144). -/
theorem exec_dil {wc n : Nat} {sh : LaneShape} (s : State) (h : laneShape wc n = .ok sh) :
    exec (.dil wc n) s = .next (s.writeLanes sh (deinterleave (s.readCode sh))).complete := finish_map_ok _ s _ h

/-- A lane bit as the lane commands read it (R24). -/
theorem State.readLanes_getLsbD (s : State) (sh : LaneShape) {i : Nat} (hi : i < sh.W) (j : Fin 16) (hj : j.val < sh.n) :
    ((s.readLanes sh).get ⟨j.val, hj⟩).getLsbD i = s.lanes[j.val].getLsbD i := by
  rw [State.readLanes_get, BitVec.getLsbD_setWidth, decide_eq_true hi, Bool.true_and]

/-- A bit of the code in CW as DIL gives it to its lane (R141, R144). -/
theorem deinterleave_readCode_getLsbD (s : State) (sh : LaneShape) (i : Nat) (j : Fin sh.n) :
    ((deinterleave (s.readCode sh)).get j).getLsbD i =
      (decide (i < sh.W) && s.cw.getLsbD (i * sh.n + (sh.n - 1 - j.val))) := by
  rw [deinterleave_getLsbD]
  by_cases hi : i < sh.W
  · rw [State.readCode, getLsbD_lowBits s.cw (lane_position_lt hi j)]
  · rw [decide_eq_false hi, Bool.false_and, Bool.false_and]

end Sys2Proof.Machine

namespace Sys2Proof.Proofs

open Sys2Proof.Machine Sys2Proof.Safety

/-- Settles O31: the interleaved lanes, bit by bit, and the checks of `laneShape`. -/
theorem ilvInterleavesTheLanes : Obligations.IlvInterleavesTheLanes := by
  refine ⟨fun wc n W s hops => ?_, laneChecks_of_rejected fun s he =>
    rejected_of_raise (finish_map_error _ s _ he) nofun nofun nofun⟩
  obtain ⟨sh, hsh, rfl, rfl⟩ := laneShape_of_operands hops
  obtain ⟨t, ht, hlow, hhigh, honly⟩ := exec_writes_lowBits sh.codeBits_le (exec_ilv s hsh) fun _ _ => rfl
  refine ⟨t, ht, fun i j hi hj => ?_, fun k hk => hhigh k (Nat.mul_comm sh.n sh.W ▸ hk), honly⟩
  calc t.cw.getLsbD (i * sh.n + (sh.n - 1 - j.val))
      = (interleave (s.readLanes sh)).getLsbD (i * sh.n + (sh.n - 1 - j.val)) := hlow _ (lane_position_lt hi ⟨j.val, hj⟩)
    _ = ((s.readLanes sh).get ⟨j.val, hj⟩).getLsbD i := interleave_getLsbD _ i hi ⟨j.val, hj⟩
    _ = s.lanes[j.val].getLsbD i := s.readLanes_getLsbD sh hi j hj

/-- Settles O32: the deinterleaved code, bit by bit, and the checks of `laneShape`. -/
theorem dilDeinterleavesTheCode : Obligations.DilDeinterleavesTheCode := by
  refine ⟨fun wc n W s hops => ?_, laneChecks_of_rejected fun s he =>
    rejected_of_raise (finish_map_error _ s _ he) nofun nofun nofun⟩
  obtain ⟨sh, hsh, rfl, rfl⟩ := laneShape_of_operands hops
  obtain ⟨t, ht, hlanes, honly⟩ := exec_writes_lanes (exec_dil s hsh)
  refine ⟨t, ht, fun i j hj => ?_, honly⟩
  rw [hlanes j hj, ← BitVec.setWidth'_eq sh.w.bits_le, BitVec.getLsbD_setWidth',
    deinterleave_readCode_getLsbD s sh i ⟨j.val, hj⟩]

end Sys2Proof.Proofs
end

section
/-! The rotation network (R160, R161): what a stage does to every bit of every lane, and the two networks and the
Hilbert codec as each other's inverse. -/

namespace Sys2Proof.Machine

/-- The mask P of a stage holds the bits below k (R160). -/
theorem lowMask_getLsbD {W k b : Nat} (hb : b < W) : (BitVec.twoPow W k - 1#W).getLsbD b = decide (b < k) := by
  rcases Nat.lt_or_ge k W with hk | hk
  · have hone : (1#W).toNat = 1 := Nat.mod_eq_of_lt (Nat.one_lt_two_pow (Nat.ne_zero_of_lt hb))
    have hle : 1#W ≤ BitVec.twoPow W k := by
      rw [BitVec.le_def, hone, BitVec.toNat_twoPow_of_lt hk]
      exact Nat.one_le_two_pow
    rw [← BitVec.testBit_toNat, BitVec.toNat_sub_of_le hle, hone, BitVec.toNat_twoPow_of_lt hk,
      Nat.testBit_two_pow_sub_one]
  · have hzero : BitVec.twoPow W k = 0#W := BitVec.eq_of_toNat_eq (BitVec.toNat_twoPow_of_le hk)
    rw [hzero, BitVec.zero_sub, BitVec.neg_one_eq_allOnes, BitVec.getLsbD_allOnes, decide_eq_true hb,
      decide_eq_true (Nat.lt_of_lt_of_le hb hk)]

/-- The test of a stage reads bit k of its lane (R160). -/
theorem and_twoPow_ne_zero_iff {W : Nat} (x : BitVec W) (k : Nat) :
    x &&& BitVec.twoPow W k ≠ 0#W ↔ x.getLsbD k = true := by
  rw [BitVec.and_twoPow]
  split
  next h =>
    have hbit : (BitVec.twoPow W k).getLsbD k = true := by simp [BitVec.lt_of_getLsbD h]
    exact iff_of_true (fun hzero => by simp [hzero] at hbit) h
  next h => exact iff_of_false (fun hne => hne rfl) h

/-- A stage, lane by lane (R160): where bit k of its lane is 1 it inverts the low bits of lane 0, and where it is 0 it
exchanges the low bits of lane 0 and its lane. -/
theorem rotStage_get {W N : Nat} (k : Nat) (i j : Fin N) (X : Lanes W N) :
    (rotStage k i X).get j =
      if (X.get i).getLsbD k = true then
        if j.val = 0 then X.get j ^^^ (BitVec.twoPow W k - 1#W) else X.get j
      else
        X.get j ^^^ ((X.get j ^^^ X.get (Equiv.swap ⟨0, i.pos⟩ i j)) &&& (BitVec.twoPow W k - 1#W)) := by
  by_cases h0 : j.val = 0
  · obtain rfl : j = ⟨0, i.pos⟩ := Fin.ext h0
    rw [Equiv.swap_apply_left]
    simp only [rotStage, and_twoPow_ne_zero_iff]
    by_cases hi : i.val = 0
    · split <;> simp [Vector.get_eq_getElem, hi]
    · split <;> simp [Vector.get_eq_getElem, Vector.getElem_set, hi]
  by_cases hi : j = i
  · subst hi
    rw [Equiv.swap_apply_right]
    simp only [rotStage, and_twoPow_ne_zero_iff]
    split <;> simp [Vector.get_eq_getElem, Ne.symm h0, BitVec.xor_comm]
  · rw [rotStage_get_other k i j X h0 hi, Equiv.swap_apply_of_ne_of_ne (Fin.ne_of_val_ne h0) hi]
    simp [h0]

/-- A stage, bit by bit (R160): the bits from k on stay; below k, lane 0 is inverted where bit k of the stage's lane is
1, and changes places with the stage's lane where it is 0. -/
theorem rotStage_getLsbD {W N k : Nat} (hk : k ≤ W) (i j : Fin N) (X : Lanes W N) (b : Nat) :
    ((rotStage k i X).get j).getLsbD b =
      if b < k then
        if (X.get i).getLsbD k = true then ((X.get j).getLsbD b ^^ decide (j.val = 0))
        else (X.get (Equiv.swap ⟨0, i.pos⟩ i j)).getLsbD b
      else (X.get j).getLsbD b := by
  rcases Nat.lt_or_ge b W with hb | hb
  · rw [rotStage_get]
    have hmask := lowMask_getLsbD (k := k) hb
    by_cases htest : (X.get i).getLsbD k = true
    · by_cases h0 : j.val = 0 <;> simp [htest, h0, hmask]
      by_cases hbk : b < k <;> simp [hbk]
    · by_cases hbk : b < k <;> simp [htest, hmask, hbk]
  · rw [BitVec.getLsbD_of_ge _ _ hb, if_neg (by omega), BitVec.getLsbD_of_ge _ _ hb]

/-- A stage at level k leaves the bits from k on (R162 a). -/
theorem rotStage_getLsbD_of_ge {W N k b : Nat} (hk : k ≤ W) (hb : k ≤ b) (i j : Fin N) (X : Lanes W N) :
    ((rotStage k i X).get j).getLsbD b = (X.get j).getLsbD b := by
  rw [rotStage_getLsbD hk, if_neg (Nat.not_lt.mpr hb)]

/-- Every stage undoes itself, since it leaves the bit it tests (R162 b). -/
theorem rotStage_involutive {W N k : Nat} (hk : k ≤ W) (i : Fin N) :
    Function.Involutive (rotStage k i : Lanes W N → Lanes W N) := by
  refine fun X => lanes_eq_of_getLsbD_eq fun j b _ => ?_
  simp only [rotStage_getLsbD hk, Nat.lt_irrefl, if_false, Equiv.swap_apply_self]
  split
  · split
    · rw [Bool.xor_assoc, Bool.xor_self, Bool.xor_false]
    · rfl
  · rfl

/-- Involutions applied in one order are undone in the reverse order. -/
theorem foldr_foldl_of_involutive {α β : Type} {f : α → β → β} (h : ∀ a, Function.Involutive (f a)) (l : List α)
    (x : β) : l.foldr f (l.foldl (fun y a => f a y) x) = x := by
  induction l generalizing x with
  | nil => rfl
  | cons a l ih => rw [List.foldl_cons, List.foldr_cons, ih, h a]

/-- Involutions applied in the reverse order are undone in the order itself. -/
theorem foldl_foldr_of_involutive {α β : Type} {f : α → β → β} (h : ∀ a, Function.Involutive (f a)) (l : List α)
    (x : β) : l.foldl (fun y a => f a y) (l.foldr f x) = x := by
  induction l with
  | nil => rfl
  | cons a l ih => rw [List.foldr_cons, List.foldl_cons, h a, ih]

/-- The inverse levels undo the levels (R161). -/
theorem rotInvLevels_rotLevels {W N m : Nat} (hm : m ≤ W) (X : Lanes W N) : rotInvLevels m (rotLevels m X) = X := by
  induction m generalizing X with
  | zero => rfl
  | succ m ih =>
    rw [rotLevels, rotInvLevels, ih (by omega)]
    exact foldr_foldl_of_involutive (rotStage_involutive hm) _ X

/-- The levels undo the inverse levels (R161). -/
theorem rotLevels_rotInvLevels {W N m : Nat} (hm : m ≤ W) (X : Lanes W N) : rotLevels m (rotInvLevels m X) = X := by
  induction m with
  | zero => rfl
  | succ m ih =>
    have hlevel : rotLevel (m + 1) (rotInvLevel (m + 1) (rotInvLevels m X)) = rotInvLevels m X :=
      foldl_foldr_of_involutive (rotStage_involutive hm) _ _
    rw [rotInvLevels, rotLevels, hlevel, ih (by omega)]

/-- R161. -/
theorem rotInv_rot {W N : Nat} (X : Lanes W N) : rotInv (rot X) = X := rotInvLevels_rotLevels (W.sub_le 1) X

/-- R161. -/
theorem rot_rotInv {W N : Nat} (X : Lanes W N) : rot (rotInv X) = X := rotLevels_rotInvLevels (W.sub_le 1) X

/-- The inverse network's stages of level k at the lanes from l on, in reverse lane order (R161). -/
def rotInvFrom {W N : Nat} (k l : Nat) (X : Lanes W N) : Lanes W N :=
  ((List.finRange N).drop l).foldr (rotStage k) X

/-- The stages from lane 0 on are the whole level (R161). -/
theorem rotInvFrom_zero {W N : Nat} (k : Nat) (X : Lanes W N) : rotInvFrom k 0 X = rotInvLevel k X := rfl

/-- No stage stands after the last lane. -/
theorem rotInvFrom_count {W N : Nat} (k : Nat) (X : Lanes W N) : rotInvFrom k N X = X := by
  rw [rotInvFrom, List.drop_eq_nil_of_le (List.length_finRange ▸ Nat.le_refl _), List.foldr_nil]

/-- The stage of lane l comes after those of the lanes above it (R161). -/
theorem rotInvFrom_lane {W N : Nat} (k : Nat) (l : Fin N) (X : Lanes W N) :
    rotInvFrom k l.val X = rotStage k l (rotInvFrom k (l.val + 1) X) := by
  have hl : l.val < (List.finRange N).length := List.length_finRange ▸ l.isLt
  rw [rotInvFrom, List.drop_eq_getElem_cons hl, List.foldr_cons, List.getElem_finRange, rotInvFrom]
  rfl

/-- The stages of a level leave the bits from k on (R162 a). -/
theorem rotInvFrom_getLsbD_of_ge {W N k b : Nat} (hk : k ≤ W) (hb : k ≤ b) (l : Nat) (j : Fin N) (X : Lanes W N) :
    ((rotInvFrom k l X).get j).getLsbD b = (X.get j).getLsbD b :=
  List.foldrRecOn (motive := fun Y => (Y.get j).getLsbD b = (X.get j).getLsbD b) _ _ rfl fun Y h i _ =>
    (rotStage_getLsbD_of_ge hk hb i j Y).trans h

/-- A level of the inverse network leaves the bits from k on (R162 a). -/
theorem rotInvLevel_getLsbD_of_ge {W N k b : Nat} (hk : k ≤ W) (hb : k ≤ b) (j : Fin N) (X : Lanes W N) :
    ((rotInvLevel k X).get j).getLsbD b = (X.get j).getLsbD b :=
  rotInvFrom_getLsbD_of_ge hk hb 0 j X

/-- The levels up to m of the inverse network leave the bits from m on (R162 a). -/
theorem rotInvLevels_getLsbD_of_ge {W N m b : Nat} (hm : m ≤ W) (hb : m ≤ b) (j : Fin N) (X : Lanes W N) :
    ((rotInvLevels m X).get j).getLsbD b = (X.get j).getLsbD b := by
  induction m with
  | zero => rfl
  | succ m ih => rw [rotInvLevels, rotInvLevel_getLsbD_of_ge hm hb, ih (by omega) (by omega)]

/-- The top bit of every lane passes through the inverse network (R162 a). -/
theorem rotInv_getLsbD_top {W N : Nat} (j : Fin N) (X : Lanes W N) :
    ((rotInv X).get j).getLsbD (W - 1) = (X.get j).getLsbD (W - 1) :=
  rotInvLevels_getLsbD_of_ge (W.sub_le 1) (Nat.le_refl _) j X

/-- R164: decoding undoes encoding. -/
theorem hilbertDecode_hilbertEncode {W N : Nat} (L : Lanes W N) : hilbertDecode (hilbertEncode L) = L := by
  rw [hilbertDecode, hilbertEncode, grayEncode_grayDecode, deinterleave_interleave, rotInv_rot]

/-- R164: encoding undoes decoding. -/
theorem hilbertEncode_hilbertDecode {W N : Nat} (Z : BitVec (W * N)) :
    hilbertEncode (hilbertDecode Z : Lanes W N) = Z := by
  rw [hilbertEncode, hilbertDecode, rot_rotInv, interleave_deinterleave, grayDecode_grayEncode]

end Sys2Proof.Machine

namespace Sys2Proof.Proofs

open Sys2Proof.Machine

/-- Settles O52: each of the three stages of the codec has its inverse in the other direction. -/
theorem hilbertCodecIsABijection : Obligations.HilbertCodecIsABijection :=
  fun _ _ L Z => ⟨hilbertDecode_hilbertEncode L, hilbertEncode_hilbertDecode Z⟩

/-- Settles O51: what the forward network does to the top bits, the inverse network would undo. -/
theorem rotationNetworksAreInverse : Obligations.RotationNetworksAreInverse := by
  refine fun W N X => ⟨rotInv_rot X, rot_rotInv X, fun j => ⟨?_, rotInv_getLsbD_top j X⟩⟩
  rw [← rotInv_getLsbD_top j (rot X), rotInv_rot]

end Sys2Proof.Proofs
end

section
/-! The commands of the axis-rotation network (R166, R167). -/

namespace Sys2Proof.Machine

open Sys2Proof.Safety

/-- The lane width with a width code and its bits (R83). -/
theorem LaneWidth.ofCode?_of_bits {wc : Nat} {w : LaneWidth} (h : LaneWidthCode wc w.bits) :
    LaneWidth.ofCode? wc = some w := by
  rcases h with ⟨rfl, hbits⟩ | ⟨rfl, hbits⟩ | ⟨rfl, hbits⟩ | ⟨rfl, hbits⟩ <;> cases w <;> cases hbits <;> rfl

/-- The lane commands accept the operands of a shape (R8, R143). -/
theorem LaneShape.laneShape_eq {wc : Nat} (sh : LaneShape) (h : LaneWidthCode wc sh.w.bits) :
    laneShape wc sh.n = .ok sh := (laneShape_ok_iff wc sh.n sh).mpr ⟨LaneWidth.ofCode?_of_bits h, rfl⟩

/-- ROTF on operands that pass its checks (R166). -/
theorem exec_rotf {wc n : Nat} {sh : LaneShape} (s : State) (h : laneShape wc n = .ok sh) :
    exec (.rotf wc n) s = .next (s.writeLanes sh (rot (s.readLanes sh))).complete := finish_map_ok _ s _ h

/-- ROTI on operands that pass its checks (R167). -/
theorem exec_roti {wc n : Nat} {sh : LaneShape} (s : State) (h : laneShape wc n = .ok sh) :
    exec (.roti wc n) s = .next (s.writeLanes sh (rotInv (s.readLanes sh))).complete := finish_map_ok _ s _ h

/-- GRAYD on a width that passes its check (R118). -/
theorem exec_grayd {wc : Nat} {c : CodeWidth} (s : State) (h : grayWidth wc = .ok c) :
    exec (.grayd wc) s = .next (s.writeCw ((grayDecode (s.cw.setWidth c.bits)).setWidth 128)).complete :=
  finish_map_ok _ s _ h

/-- A tuple written to the lanes is read back at the same shape (R24, R25). -/
theorem State.readLanes_writeLanes (s : State) (sh : LaneShape) (L : Lanes sh.W sh.n) :
    (s.writeLanes sh L).complete.readLanes sh = L := by
  refine Vector.ext fun j hj => ?_
  have hread := State.readLanes_get (s.writeLanes sh L).complete sh ⟨j, hj⟩
  have hlane := s.writeLanes_get_lt sh L ⟨j, hj.trans_le sh.le_max⟩ hj
  rw [State.complete_lanes, hlane, BitVec.setWidth_setWidth_of_le _ sh.w.bits_le, BitVec.setWidth_eq] at hread
  exact hread

/-- GRAYD at the width of a code in CW decodes that code (R111, R118). -/
theorem grayDecode_codeWord {v w : Nat} (hv : v ≤ 128) (h : w = v) (z : BitVec v) :
    (grayDecode ((z.setWidth 128).setWidth w)).setWidth 128 = (grayDecode z).setWidth 128 := by
  subst h
  rw [BitVec.setWidth_setWidth_of_le _ hv, BitVec.setWidth_eq]

end Sys2Proof.Machine

namespace Sys2Proof.Proofs

open Sys2Proof.Machine Sys2Proof.Safety

/-- Settles O33: ILV reads the lanes ROTF wrote, and GRAYD the code ILV wrote. -/
theorem rotfRotatesTheLanes : Obligations.RotfRotatesTheLanes := by
  refine ⟨fun wc sh s hwc => exec_writes_lanes (exec_rotf s (sh.laneShape_eq hwc)), fun wc g sh s hwc hg => ?_,
    laneChecks_of_rejected fun s he => rejected_of_raise (finish_map_error _ s _ he) nofun nofun nofun⟩
  have hsh := sh.laneShape_eq hwc
  obtain ⟨c, hc, hbits⟩ := grayWidth_of_code hg
  refine ⟨_, _, _, exec_rotf s hsh, exec_ilv _ hsh, exec_grayd _ hc, ?_⟩
  rw [State.complete_cw, State.writeCw_cw, State.complete_cw, State.writeCw_cw, State.readLanes_writeLanes,
    grayDecode_codeWord sh.codeBits_le (hbits.trans (Nat.mul_comm _ _)), hilbertEncode]

/-- Settles O34: ROTI reads the lanes ROTF wrote, and its network undoes that of ROTF. -/
theorem rotiRotatesTheLanesBack : Obligations.RotiRotatesTheLanesBack := by
  refine ⟨fun wc sh s hwc => ?_,
    laneChecks_of_rejected fun s he => rejected_of_raise (finish_map_error _ s _ he) nofun nofun nofun⟩
  have hsh := sh.laneShape_eq hwc
  refine ⟨exec_writes_lanes (exec_roti s hsh), _, _, exec_rotf s hsh, exec_roti _ hsh, fun j i hj hi => ?_⟩
  rw [State.complete_lanes, State.writeLanes_get_lt _ _ _ j hj, State.readLanes_writeLanes, rotInv_rot,
    ← BitVec.setWidth'_eq sh.w.bits_le, BitVec.getLsbD_setWidth', s.readLanes_getLsbD sh hi j hj]

end Sys2Proof.Proofs
end

section
/-! The 2-D table (R169). -/

namespace Sys2Proof.Machine

/-- The pair of lane 0 and lane 1 that the 2-D table gives index `k` (R169). -/
def hilbertPair (k : Fin 16) : Nat × Nat :=
  (#v[(0,0), (1,0), (1,1), (0,1), (0,2), (0,3), (1,3), (1,2), (2,2), (2,3), (3,3), (3,2), (3,1), (2,1), (2,0), (3,0)] :
    Vector (Nat × Nat) 16)[k.val]

/-- The pair of index `k` as two lanes. -/
def hilbertPairLanes (W : Nat) (k : Fin 16) : Lanes W 2 :=
  #v[BitVec.ofNat W (hilbertPair k).1, BitVec.ofNat W (hilbertPair k).2]

/-- The encoder gives the 16 indices of the table at every lane width (R169). -/
theorem hilbertEncode_hilbertPairLanes (w : LaneWidth) (k : Fin 16) :
    hilbertEncode (hilbertPairLanes w.bits k) = BitVec.ofNat (w.bits * 2) k.val := by
  cases w with
  | w8 => revert k; decide +kernel
  | w16 => revert k; decide +kernel
  | w32 => revert k; decide +kernel
  | w64 => revert k; decide +kernel

end Sys2Proof.Machine

namespace Sys2Proof.Proofs

open Sys2Proof.Machine

/-- Settles O54: the encoder's 16 values are computed at each width, and the decoder undoes the encoder. -/
theorem hilbertTwoDimensionalTable : Obligations.HilbertTwoDimensionalTable := by
  intro w k
  have hencode := hilbertEncode_hilbertPairLanes w k
  exact ⟨hencode, hencode ▸ hilbertDecode_hilbertEncode (hilbertPairLanes w.bits k)⟩

end Sys2Proof.Proofs
end

section
/-! The Hilbert codec of one lane (R171). -/

namespace Sys2Proof.Machine

/-- Values with the same bits are the same number, whatever their widths. -/
theorem toNat_eq_of_getLsbD_eq {v w : Nat} {x : BitVec v} {y : BitVec w} (h : ∀ b, x.getLsbD b = y.getLsbD b) :
    x.toNat = y.toNat := Nat.eq_of_testBit_eq fun b => by rw [BitVec.testBit_toNat, BitVec.testBit_toNat, h]

/-- A level of one lane is its one stage, which inverts the bits below k where bit k is 1 (R162 c). -/
theorem rotInvLevel_one_getLsbD {W k : Nat} (hk : k ≤ W) (X : Lanes W 1) (b : Nat) :
    ((rotInvLevel k X).get 0).getLsbD b =
      ((X.get 0).getLsbD b ^^ (decide (b < k) && (X.get 0).getLsbD k)) := by
  have hlevel : rotInvLevel k X = rotStage k 0 X := rfl
  rw [hlevel, rotStage_getLsbD hk]
  by_cases hb : b < k <;> cases hbit : (X.get 0).getLsbD k <;> simp [hb]

/-- On a gray-encoded lane, the levels up to m undo the gray code up to bit m (R171). -/
theorem rotInvLevels_one_getLsbD {W m : Nat} (hm : m ≤ W) {X : Lanes W 1} {f : Nat → Bool}
    (hX : ∀ b, (X.get 0).getLsbD b = (f b ^^ f (b + 1))) (b : Nat) :
    ((rotInvLevels m X).get 0).getLsbD b = (f b ^^ f (max b m + 1)) := by
  induction m generalizing b with
  | zero => rw [rotInvLevels, hX, Nat.max_zero]
  | succ m ih =>
    rw [rotInvLevels, rotInvLevel_one_getLsbD hm, ih (by omega), ih (by omega), Nat.max_eq_left m.le_succ]
    obtain hb | hb := Nat.lt_or_ge b (m + 1)
    · rw [decide_eq_true hb, Nat.max_eq_right (by omega), Nat.max_eq_right (by omega)]
      simp
    · rw [decide_eq_false (by omega), Nat.max_eq_left (by omega), Nat.max_eq_left hb]
      simp

/-- A bit of one lane stands at its own place in the code (R140). -/
theorem deinterleave_one_getLsbD {W : Nat} (z : BitVec (W * 1)) (b : Nat) :
    ((deinterleave z : Lanes W 1).get 0).getLsbD b = z.getLsbD b := by
  rw [deinterleave_getLsbD]
  by_cases hb : b < W
  · simp [hb]
  · simp [hb, z.getLsbD_of_ge b (by omega)]

/-- With one lane the Hilbert decoder is the Morton decoder: the network undoes the gray code (R171). -/
theorem hilbertDecode_one {W : Nat} (z : BitVec (W * 1)) : (hilbertDecode z : Lanes W 1) = deinterleave z := by
  have hgray : ∀ b, ((deinterleave (grayEncode z) : Lanes W 1).get 0).getLsbD b =
      (z.getLsbD b ^^ z.getLsbD (b + 1)) := fun b => by rw [deinterleave_one_getLsbD, grayEncode_getLsbD]
  refine lanes_eq_of_getLsbD_eq fun j b _ => ?_
  rw [Subsingleton.elim j 0, hilbertDecode, rotInv, rotInvLevels_one_getLsbD (W.sub_le 1) hgray,
    z.getLsbD_of_ge (_ + 1) (by omega), Bool.xor_false, deinterleave_one_getLsbD]

/-- With one lane the Hilbert encoder is the Morton encoder (R171). -/
theorem hilbertEncode_one {W : Nat} (L : Lanes W 1) : hilbertEncode L = interleave L := by
  have hL : hilbertDecode (interleave L) = L := by rw [hilbertDecode_one, deinterleave_interleave]
  rw [← hL, hilbertEncode_hilbertDecode, hL]

/-- With one lane the decoders give the index's value (R171). -/
theorem toNat_deinterleave_one {W : Nat} (z : BitVec (W * 1)) :
    ((deinterleave z : Lanes W 1).get 0).toNat = z.toNat :=
  toNat_eq_of_getLsbD_eq (deinterleave_one_getLsbD z)

/-- With one lane the encoders give the lane's value (R171). -/
theorem toNat_interleave_one {W : Nat} (L : Lanes W 1) : (interleave L).toNat = (L.get 0).toNat := by
  rw [← toNat_deinterleave_one, deinterleave_interleave]

end Sys2Proof.Machine

namespace Sys2Proof.Proofs

open Sys2Proof.Machine

/-- Settles O55: with one lane the Hilbert codec is the Morton codec, which only regroups bits. -/
theorem hilbertOfOneLaneIsTheIdentity : Obligations.HilbertOfOneLaneIsTheIdentity := by
  intro W x z
  rw [hilbertEncode_one, hilbertDecode_one]
  exact ⟨toNat_interleave_one #v[x], toNat_interleave_one #v[x], toNat_deinterleave_one z⟩

end Sys2Proof.Proofs
end

section
/-! The corners of the curve (R172): what the inverse network makes of lanes whose low bits are 0 but for, at most, a
single 1 in lane 0. -/

namespace Sys2Proof.Machine

/-- The low m bits of the lanes are those of an end of the curve (R172): of its start, where every lane is 0, or, with
`c`, of its end, where lane 0 is all ones and the other lanes are 0. -/
def AtCorner {W N : Nat} (m : Nat) (c : Bool) (X : Lanes W N) : Prop :=
  ∀ (j : Fin N) (b : Nat), b < m → (X.get j).getLsbD b = (c && decide (j.val = 0))

/-- A corner of the whole tuple is an end of the curve (R172). -/
theorem AtCorner.get_eq {W N : Nat} {c : Bool} {X : Lanes W N} (h : AtCorner W c X) (j : Fin N) :
    X.get j = if (c && decide (j.val = 0)) = true then BitVec.allOnes W else 0#W := by
  refine BitVec.eq_of_getLsbD_eq fun b hb => ?_
  rw [h j b hb]
  split
  next hc => rw [hc, BitVec.getLsbD_allOnes, decide_eq_true hb]
  next hc => rw [Bool.eq_false_of_not_eq_true hc, BitVec.getLsbD_zero]

/-- A stage takes the start below its level to the end where it reflects, and keeps it elsewhere. -/
theorem AtCorner.rotStage_start {W N k : Nat} {X : Lanes W N} (hk : k ≤ W) (h : AtCorner k false X) (i : Fin N) :
    AtCorner k ((X.get i).getLsbD k) (rotStage k i X) := by
  intro j b hb
  rw [rotStage_getLsbD hk, if_pos hb, h j b hb, h _ b hb]
  cases (X.get i).getLsbD k <;> simp

/-- A stage takes the end below its level to the start where it reflects, and moves its ones to the stage's lane
elsewhere. -/
theorem AtCorner.rotStage_end {W N k b : Nat} {X : Lanes W N} (hk : k ≤ W) (h : AtCorner k true X) (i j : Fin N)
    (hb : b < k) : ((rotStage k i X).get j).getLsbD b = (!(X.get i).getLsbD k && decide (j = i)) := by
  have hswap : (Equiv.swap ⟨0, i.pos⟩ i j).val = 0 ↔ j = i :=
    (Fin.ext_iff (b := ⟨0, i.pos⟩)).symm.trans (by rw [Equiv.swap_apply_eq_iff, Equiv.swap_apply_left])
  rw [rotStage_getLsbD hk, if_pos hb, h j b hb, h _ b hb]
  cases (X.get i).getLsbD k <;> simp [hswap]

/-- The start at more bits than a level has below it is kept by the level: it reflects nowhere. -/
theorem AtCorner.rotInvLevel_start {W N n k : Nat} {X : Lanes W N} (hn : n ≤ W) (hk : k < n) (h : AtCorner n false X) :
    AtCorner n false (rotInvLevel k X) := by
  refine List.foldrRecOn _ _ h fun Y hY i _ j b hb => ?_
  rw [rotStage_getLsbD (by omega), hY i k hk, hY j b hb, hY _ b hb]
  simp

/-- The start at more bits than the highest level has below it is kept by the levels. -/
theorem AtCorner.rotInvLevels_start {W N n m : Nat} {X : Lanes W N} (hn : n ≤ W) (hm : m < n) (h : AtCorner n false X) :
    AtCorner n false (rotInvLevels m X) := by
  induction m with
  | zero => exact h
  | succ m ih => exact (ih (by omega)).rotInvLevel_start hn hm

/-- Where, of the lanes from lane `a` on, only lane `a` may hold a 1 at bit k, the stages of those lanes leave the start
below bit k as it is, up to the stage of lane `a`, which takes it to the end if the lane holds that 1. -/
theorem atCorner_rotInvFrom {W N k a : Nat} {c : Bool} {X : Lanes W N} (hk : k ≤ W)
    (hX : AtCorner k (c && decide (N = a)) X)
    (hdigit : ∀ l : Fin N, a ≤ l.val → (X.get l).getLsbD k = (c && decide (l.val = a))) {l : Nat} (hl : a ≤ l)
    (hlN : l ≤ N) : AtCorner k (c && decide (l = a)) (rotInvFrom k l X) := by
  induction hlN using Nat.decreasingInduction with
  | self => rwa [rotInvFrom_count]
  | of_succ l hlN ih =>
    have hstart := ih (by omega)
    rw [decide_eq_false (by omega), Bool.and_false] at hstart
    have hstage := hstart.rotStage_start hk ⟨l, hlN⟩
    rwa [rotInvFrom_getLsbD_of_ge hk (Nat.le_refl k), hdigit _ hl, ← rotInvFrom_lane] at hstage

/-- Lanes that are 0 below bit m but, with `c`, for bit m − 1 of lane 0: the levels below m turn them into a corner. -/
theorem atCorner_rotInvLevels {W N m : Nat} {c : Bool} {X : Lanes W N} (hm : m ≤ W)
    (hX : ∀ (j : Fin N) (b : Nat), b < m → (X.get j).getLsbD b = (c && decide (j.val = 0 ∧ b + 1 = m))) :
    AtCorner m c (rotInvLevels (m - 1) X) := by
  intro j b hb
  obtain rfl | hlow : b + 1 = m ∨ b + 1 < m := by omega
  · rw [rotInvLevels_getLsbD_of_ge (by omega) (by omega), hX j b hb]
    simp
  obtain ⟨n, rfl⟩ : ∃ n, m = n + 2 := ⟨m - 2, by omega⟩
  have hstart : AtCorner (n + 1) false X := fun j b hb => by
    rw [hX j b (by omega), decide_eq_false (by omega), Bool.and_false, Bool.false_and]
  have hcount : (c && decide (N = 0)) = false := by rw [decide_eq_false j.pos.ne', Bool.and_false]
  have hbelow : AtCorner (n + 1) (c && decide (N = 0)) (rotInvLevels n X) :=
    hcount ▸ hstart.rotInvLevels_start (by omega) n.lt_succ_self
  have hdigit : ∀ l : Fin N, 0 ≤ l.val → ((rotInvLevels n X).get l).getLsbD (n + 1) = (c && decide (l.val = 0)) := by
    intro l _
    rw [rotInvLevels_getLsbD_of_ge (by omega) n.le_succ, hX l _ (by omega)]
    simp
  have hend := atCorner_rotInvFrom (by omega) hbelow hdigit (Nat.le_refl 0) N.zero_le
  rw [decide_eq_true rfl, Bool.and_true, rotInvFrom_zero] at hend
  exact hend j b (by omega)

/-- Of the bits of lower digits, only bit i − 1 of lane 0 can stand just below bit i of lane j: when j is the last lane
(R140). -/
theorem lane_position_succ_eq_iff {N i b : Nat} {j l : Fin N} (hb : b < i) :
    b * N + (N - 1 - l.val) + 1 = i * N + (N - 1 - j.val) ↔ N = j.val + 1 ∧ l.val = 0 ∧ b + 1 = i := by
  have hle : (b + 1) * N ≤ i * N := Nat.mul_le_mul_right N hb
  rw [Nat.succ_mul] at hle
  obtain rfl | hlt : b + 1 = i ∨ b + 1 < i := by omega
  · rw [Nat.succ_mul]
    omega
  · have hle : (b + 2) * N ≤ i * N := Nat.mul_le_mul_right N hlt
    rw [Nat.add_mul] at hle
    omega

/-- Below position `p` the value holds no 1 but the one next to `p`. -/
def SingleBelow {w : Nat} (p : Nat) (z : BitVec w) : Prop := ∀ q, q < p → z.getLsbD q = decide (q + 1 = p)

/-- A code with a single 1 below the position of bit `i` of lane `j`, deinterleaved: the bits below level `i`. -/
theorem deinterleave_getLsbD_below {W N i b : Nat} {j : Fin N} {z : BitVec (W * N)} (hi : i ≤ W)
    (h : SingleBelow (i * N + (N - 1 - j.val)) z) (l : Fin N)
    (hb : b < i) :
    ((deinterleave z).get l).getLsbD b = (decide (N = j.val + 1) && decide (l.val = 0 ∧ b + 1 = i)) := by
  have hlt := lane_position_lt hb l
  rw [deinterleave_getLsbD, decide_eq_true (by omega), Bool.true_and, h _ (by omega), ← Bool.decide_and,
    decide_eq_decide, lane_position_succ_eq_iff hb]

/-- Below the lowest 0 of the index its gray code holds a single 1 (R110). -/
theorem singleBelow_grayEncode {w p : Nat} {z : BitVec w} (hones : ∀ q, q < p → z.getLsbD q = true)
    (hzero : z.getLsbD p = false) : SingleBelow p (grayEncode z) := by
  intro q hq
  rw [grayEncode_getLsbD, hones q hq]
  obtain rfl | hlt : q + 1 = p ∨ q + 1 < p := by omega
  · simp [hzero]
  · simp [hones _ hlt, hlt.ne]

/-- The first index decodes to the start of the curve (R172). -/
theorem atCorner_hilbertDecode_zero (W N : Nat) : AtCorner W false (hilbertDecode 0 : Lanes W N) :=
  atCorner_rotInvLevels (Nat.le_refl W) fun j b _ => by simp [deinterleave_getLsbD, grayEncode_getLsbD]

/-- The last index decodes to the end of the curve: its gray code is a single 1, at the top bit of lane 0 (R172). -/
theorem atCorner_hilbertDecode_allOnes (W N : Nat) :
    AtCorner W true (hilbertDecode (BitVec.allOnes (W * N)) : Lanes W N) := by
  have hgray : SingleBelow (W * N) (grayEncode (BitVec.allOnes (W * N))) :=
    singleBelow_grayEncode (fun q hq => by rw [BitVec.getLsbD_allOnes, decide_eq_true hq])
      (BitVec.getLsbD_of_ge _ _ (Nat.le_refl _))
  refine atCorner_rotInvLevels (Nat.le_refl W) fun j b hb => ?_
  obtain ⟨last, hlast⟩ : ∃ last : Fin N, N = last.val + 1 :=
    ⟨⟨N - 1, Nat.sub_one_lt j.pos.ne'⟩, (Nat.sub_add_cancel j.pos).symm⟩
  have hend : W * N + (N - 1 - last.val) = W * N := by omega
  have hsingle : SingleBelow (W * N + (N - 1 - last.val)) (grayEncode (BitVec.allOnes (W * N))) := by rwa [hend]
  rw [deinterleave_getLsbD_below (Nat.le_refl W) hsingle j hb, decide_eq_true hlast]

/-- The origin is encoded to the first index (R172). -/
theorem hilbertEncode_zero (W N : Nat) : hilbertEncode (Vector.replicate N 0 : Lanes W N) = 0 := by
  have horigin : (hilbertDecode 0 : Lanes W N) = Vector.replicate N 0 := lanes_eq_of_getLsbD_eq fun j b hb => by
    rw [atCorner_hilbertDecode_zero W N j b hb, Vector.get_eq_getElem, Vector.getElem_replicate, Bool.false_and]
    exact BitVec.getLsbD_zero.symm
  rw [← horigin, hilbertEncode_hilbertDecode]

end Sys2Proof.Machine

namespace Sys2Proof.Proofs

open Sys2Proof.Machine

/-- Settles O56: both end points are corners of the curve. -/
theorem hilbertCurveEndPoints : Obligations.HilbertCurveEndPoints := by
  refine fun sh => ⟨hilbertEncode_zero sh.W sh.n, fun j => ?_⟩
  rw [(atCorner_hilbertDecode_allOnes sh.W sh.n).get_eq j]
  simp

end Sys2Proof.Proofs
end

section
/-! The steps along the curve (R170). The gray codes of neighbouring indices differ in one bit, and below it hold no 1
but the one next to it. Up to the level of that bit the inverse network turns the bits below into a corner of the curve,
which makes the two tuples neighbours; every later level keeps neighbours neighbours. -/

namespace Sys2Proof.Machine

variable {W N i : Nat} {j : Fin N} {X Y : Lanes W N}

/-- The tuples differ in bit `i` of lane `j` alone. -/
def FlippedAt {W N : Nat} (i : Nat) (j : Fin N) (X Y : Lanes W N) : Prop :=
  ∀ (l : Fin N) (b : Nat), (Y.get l).getLsbD b = ((X.get l).getLsbD b ^^ decide (l = j ∧ b = i))

/-- The tuples are neighbours along lane `j`: they are equal in the other lanes, and in lane `j` hold two numbers that
differ by 1, with the carry at bit `i`. -/
structure NeighbourAt {W N : Nat} (i : Nat) (j : Fin N) (X Y : Lanes W N) : Prop where
  /-- The bits that differ are those of lane `j` up to the carry. -/
  flips (l : Fin N) (b : Nat) : (Y.get l).getLsbD b = ((X.get l).getLsbD b ^^ decide (l = j ∧ b ≤ i))
  /-- Below the carry lane `j` holds ones where the carry's bit is 0, and zeros where it is 1. -/
  below (b : Nat) : b < i → (X.get j).getLsbD b = !(X.get j).getLsbD i

/-- A stage up to the level of the differing bit that does not test this bit keeps it the only difference. -/
theorem flippedAt_rotStage {k : Nat} {l : Fin N} (h : FlippedAt i j X Y) (hk : k ≤ W)
    (hki : k ≤ i) (hne : ¬(l = j ∧ k = i)) : FlippedAt i j (rotStage k l X) (rotStage k l Y) := by
  have htest : (Y.get l).getLsbD k = (X.get l).getLsbD k := by rw [h, decide_eq_false hne, Bool.xor_false]
  intro m b
  rw [rotStage_getLsbD hk, rotStage_getLsbD hk, htest]
  by_cases hb : b < k
  · have hbelow : ∀ m, (Y.get m).getLsbD b = (X.get m).getLsbD b := fun m => by
      rw [h, decide_eq_false (by omega), Bool.xor_false]
    rw [hbelow, hbelow, decide_eq_false (by omega : ¬(m = j ∧ b = i)), Bool.xor_false]
  · rw [if_neg hb, if_neg hb, h]

/-- The levels below the differing bit keep it the only difference. -/
theorem flippedAt_rotInvLevels {m : Nat} (h : FlippedAt i j X Y) (hm : m ≤ W)
    (hmi : m < i) : FlippedAt i j (rotInvLevels m X) (rotInvLevels m Y) := by
  induction m with
  | zero => exact h
  | succ m ih =>
    rw [rotInvLevels, rotInvLevels, rotInvLevel, rotInvLevel]
    generalize List.finRange N = lanes
    induction lanes with
    | nil => exact ih (by omega) (by omega)
    | cons l lanes ih => exact flippedAt_rotStage ih hm (by omega) (by omega)

/-- The stages of the differing bit's level at the lanes above it keep it the only difference. -/
theorem flippedAt_rotInvFrom {l : Nat} (h : FlippedAt i j X Y) (hi : i ≤ W)
    (hl : j.val < l) (hlN : l ≤ N) : FlippedAt i j (rotInvFrom i l X) (rotInvFrom i l Y) := by
  induction hlN using Nat.decreasingInduction with
  | self => rwa [rotInvFrom_count, rotInvFrom_count]
  | of_succ l hlN ih =>
    have hstage := flippedAt_rotStage (l := ⟨l, hlN⟩) (ih (by omega)) hi (Nat.le_refl i) (by
      rintro ⟨rfl, -⟩
      exact Nat.lt_irrefl l hl)
    rwa [← rotInvFrom_lane, ← rotInvFrom_lane] at hstage

/-- The stage that tests the differing bit, at the end of the curve below it: one tuple reflects and the other moves its
ones to the tested lane, where the bit above them differs. -/
theorem FlippedAt.neighbourAt (h : FlippedAt i j X Y)
    (hi : i ≤ W) (hX : AtCorner i true X) : NeighbourAt i j (rotStage i j X) (rotStage i j Y) := by
  have hY : AtCorner i true Y := fun l b hb => by
    rw [h, decide_eq_false (by omega), Bool.xor_false, hX l b hb]
  refine ⟨fun l b => ?_, fun b hb => ?_⟩
  · by_cases hb : b < i
    · rw [hX.rotStage_end hi j l hb, hY.rotStage_end hi j l hb, h]
      cases (X.get j).getLsbD i <;> simp [hb.le]
    · rw [rotStage_getLsbD_of_ge hi (by omega), rotStage_getLsbD_of_ge hi (by omega), h]
      simp [show b ≤ i ↔ b = i by omega]
  · rw [hX.rotStage_end hi j j hb, rotStage_getLsbD_of_ge hi (Nat.le_refl i), decide_eq_true rfl, Bool.and_true]

/-- A later stage of the same level, at a lane below the differing one, keeps neighbours neighbours in that lane. -/
theorem NeighbourAt.rotStage_same {l : Fin N} (h : NeighbourAt i j X Y) (hi : i ≤ W)
    (hlj : l < j) : NeighbourAt i j (rotStage i l X) (rotStage i l Y) := by
  obtain ⟨hflip, hones⟩ := h
  have hj : j.val ≠ 0 := by omega
  have htest : (Y.get l).getLsbD i = (X.get l).getLsbD i := by
    rw [hflip, decide_eq_false (by omega), Bool.xor_false]
  have hswap : Equiv.swap ⟨0, l.pos⟩ l j = j := Equiv.swap_apply_of_ne_of_ne (Fin.ne_of_val_ne hj) hlj.ne'
  refine ⟨fun m b => ?_, fun b hb => ?_⟩
  · rw [rotStage_getLsbD hi, rotStage_getLsbD hi, htest]
    split
    · split
      · rw [hflip, Bool.xor_right_comm]
      · simp only [hflip, Equiv.swap_apply_eq_iff, hswap]
    · rw [hflip]
  · rw [rotStage_getLsbD hi, rotStage_getLsbD_of_ge hi (Nat.le_refl i), hswap, decide_eq_false hj, Bool.xor_false,
      ite_self, if_pos hb, hones b hb]

/-- A stage of a later level inverts or moves the low bits of the differing lane as a whole, which keeps neighbours
neighbours. -/
theorem NeighbourAt.rotStage_later {k : Nat} (h : NeighbourAt i j X Y) (hk : k ≤ W)
    (hik : i < k) (l : Fin N) : ∃ j', NeighbourAt i j' (rotStage k l X) (rotStage k l Y) := by
  obtain ⟨hflip, hones⟩ := h
  have htest : (Y.get l).getLsbD k = (X.get l).getLsbD k := by
    rw [hflip, decide_eq_false (by omega), Bool.xor_false]
  cases hbit : (X.get l).getLsbD k with
  | true =>
    refine ⟨j, fun m b => ?_, fun b hb => ?_⟩
    · rw [rotStage_getLsbD hk, rotStage_getLsbD hk, htest, hbit, if_pos rfl, if_pos rfl, hflip, Bool.xor_right_comm]
      split <;> rfl
    · rw [rotStage_getLsbD hk, rotStage_getLsbD hk, hbit, if_pos rfl, if_pos rfl, if_pos (hb.trans hik), if_pos hik,
        hones b hb, Bool.not_xor]
  | false =>
    refine ⟨Equiv.swap ⟨0, l.pos⟩ l j, fun m b => ?_, fun b hb => ?_⟩
    · simp only [rotStage_getLsbD hk, htest, hbit, Bool.false_eq_true, if_false, hflip, Equiv.swap_apply_eq_iff]
      split
      · rfl
      · rw [decide_eq_false (by omega), decide_eq_false (by omega)]
    · simp only [rotStage_getLsbD hk, hbit, Bool.false_eq_true, if_false, hb.trans hik, hik, if_true,
        Equiv.swap_apply_self, hones b hb]

/-- The rest of the level of the differing bit keeps neighbours neighbours in its lane. -/
theorem neighbourAt_rotInvFrom {l : Nat}
    (h : NeighbourAt i j (rotInvFrom i j.val X) (rotInvFrom i j.val Y)) (hi : i ≤ W) (hl : l ≤ j.val) :
    NeighbourAt i j (rotInvFrom i l X) (rotInvFrom i l Y) := by
  induction hl using Nat.decreasingInduction with
  | self => exact h
  | of_succ l hl ih =>
    have hstage := ih.rotStage_same (l := ⟨l, hl.trans j.isLt⟩) hi hl
    rwa [← rotInvFrom_lane, ← rotInvFrom_lane] at hstage

/-- The later levels keep neighbours neighbours. -/
theorem neighbourAt_rotInvLevel {k : Nat} (h : NeighbourAt i j X Y) (hk : k ≤ W)
    (hik : i < k) : ∃ j', NeighbourAt i j' (rotInvLevel k X) (rotInvLevel k Y) := by
  rw [rotInvLevel, rotInvLevel]
  generalize List.finRange N = lanes
  induction lanes with
  | nil => exact ⟨j, h⟩
  | cons l lanes ih =>
    obtain ⟨j', hj'⟩ := ih
    exact hj'.rotStage_later hk hik l

/-- Up to the level of the differing bit the inverse network makes neighbours of two tuples that differ in bit `i` of
lane `j`, if the bits below, in the order of the code, hold no 1 but the one next to it. -/
theorem FlippedAt.neighbourAt_rotInvLevels (h : FlippedAt i j X Y)
    (hi : i ≤ W)
    (hlow : ∀ (l : Fin N) (b : Nat), b < i →
      (X.get l).getLsbD b = (decide (N = j.val + 1) && decide (l.val = 0 ∧ b + 1 = i)))
    (hdigit : ∀ l : Fin N, j.val + 1 ≤ l.val → (X.get l).getLsbD i = decide (l.val = j.val + 1)) :
    NeighbourAt i j (rotInvLevels i X) (rotInvLevels i Y) := by
  cases i with
  | zero => exact ⟨fun l b => by simp only [rotInvLevels, h l b, Nat.le_zero], nofun⟩
  | succ n =>
    have hflip := flippedAt_rotInvLevels h (by omega) n.lt_succ_self
    have hcorner : AtCorner (n + 1) (decide (N = j.val + 1)) (rotInvLevels n X) := atCorner_rotInvLevels hi hlow
    have hend := atCorner_rotInvFrom (c := true) hi hcorner (fun l hl => by
      rw [rotInvLevels_getLsbD_of_ge (by omega) n.le_succ, hdigit l hl, Bool.true_and]) (Nat.le_refl _) j.isLt
    rw [decide_eq_true rfl, Bool.and_true] at hend
    have hstage := (flippedAt_rotInvFrom hflip hi j.val.lt_succ_self j.isLt).neighbourAt hi hend
    rw [← rotInvFrom_lane, ← rotInvFrom_lane] at hstage
    rw [rotInvLevels, rotInvLevels, ← rotInvFrom_zero, ← rotInvFrom_zero]
    exact neighbourAt_rotInvFrom hstage hi j.val.zero_le

/-- The levels after that of the carry keep neighbours neighbours. -/
theorem NeighbourAt.exists_rotInvLevels {m : Nat}
    (h : NeighbourAt i j (rotInvLevels i X) (rotInvLevels i Y)) (him : i ≤ m) (hm : m ≤ W) :
    ∃ j', NeighbourAt i j' (rotInvLevels m X) (rotInvLevels m Y) := by
  induction m, him using Nat.le_induction with
  | base => exact ⟨j, h⟩
  | succ m him ih =>
    obtain ⟨j', hj'⟩ := ih (by omega)
    exact neighbourAt_rotInvLevel hj' hm (by omega)

/-- Two bits of the tuple stand at one position of the code only if they are the same bit (R140). -/
theorem lane_position_eq_iff {b : Nat} {l : Fin N} :
    b * N + (N - 1 - l.val) = i * N + (N - 1 - j.val) ↔ l = j ∧ b = i := by
  refine ⟨fun h => ?_, fun ⟨hl, hb⟩ => hl ▸ hb ▸ rfl⟩
  obtain hb | rfl | hb := Nat.lt_trichotomy b i
  · have hlt := lane_position_lt hb l
    omega
  · exact ⟨Fin.ext (by omega), rfl⟩
  · have hlt := lane_position_lt hb j
    omega

/-- Codes that differ at one position deinterleave to tuples that differ in one bit (R141). -/
theorem flippedAt_deinterleave {y z : BitVec (W * N)} (hi : i < W)
    (h : ∀ q, z.getLsbD q = (y.getLsbD q ^^ decide (q = i * N + (N - 1 - j.val)))) :
    FlippedAt i j (deinterleave y) (deinterleave z) := by
  intro l b
  simp only [deinterleave_getLsbD, h, lane_position_eq_iff]
  by_cases hb : b < W
  · simp [hb]
  · simp [hb, show b ≠ i by omega]

/-- A code with a single 1 below the position of bit `i` of lane `j`, deinterleaved: the bits of level `i` in the lanes
above `j`. -/
theorem deinterleave_getLsbD_digit {z : BitVec (W * N)} (hi : i < W)
    (h : SingleBelow (i * N + (N - 1 - j.val)) z) (l : Fin N)
    (hl : j.val + 1 ≤ l.val) : ((deinterleave z).get l).getLsbD i = decide (l.val = j.val + 1) := by
  have hlN := l.isLt
  rw [deinterleave_getLsbD, decide_eq_true hi, Bool.true_and, h _ (by omega), decide_eq_decide]
  omega

/-- The gray codes of two indices that differ up to bit p differ at bit p alone (R110). -/
theorem grayEncode_getLsbD_of_carry {w p : Nat} {y z : BitVec w}
    (h : ∀ q, z.getLsbD q = (y.getLsbD q ^^ decide (q ≤ p))) (q : Nat) :
    (grayEncode z).getLsbD q = ((grayEncode y).getLsbD q ^^ decide (q = p)) := by
  have hdecide : (decide (q ≤ p) ^^ decide (q + 1 ≤ p)) = decide (q = p) := by
    rw [Bool.eq_iff_iff]
    simp
    omega
  rw [grayEncode_getLsbD, grayEncode_getLsbD, h, h, ← hdecide, Bool.xor_assoc, Bool.xor_assoc,
    Bool.xor_left_comm (decide _)]

/-- Adding 1 inverts the bits up to the lowest 0. -/
theorem testBit_succ_of_carry {n p : Nat} (hones : ∀ q, q < p → n.testBit q = true) (hzero : n.testBit p = false)
    (q : Nat) : (n + 1).testBit q = (n.testBit q ^^ decide (q ≤ p)) := by
  induction q generalizing n p with
  | zero =>
    rw [Nat.testBit_zero, Nat.testBit_zero, decide_eq_true p.zero_le, Bool.xor_true, ← decide_not, decide_eq_decide]
    omega
  | succ q ih =>
    rw [Nat.testBit_succ, Nat.testBit_succ]
    cases p with
    | zero =>
      have heven : n % 2 = 0 := by simpa using hzero
      rw [show (n + 1) / 2 = n / 2 by omega, decide_eq_false (by omega), Bool.xor_false]
    | succ p =>
      have hodd : n % 2 = 1 := by simpa using hones 0 p.succ_pos
      have hcarry := ih (n := n / 2) (p := p) (fun b hb => Nat.testBit_succ n b ▸ hones (b + 1) (by omega))
        (Nat.testBit_succ n p ▸ hzero)
      rw [show (n + 1) / 2 = n / 2 + 1 by omega, hcarry]
      simp

/-- Every number has a lowest 0. -/
theorem exists_lowest_zero (n : Nat) : ∃ p, (∀ q, q < p → n.testBit q = true) ∧ n.testBit p = false := by
  have hex : ∃ p, n.testBit p = false := ⟨n, Nat.testBit_lt_two_pow n.lt_two_pow_self⟩
  exact ⟨Nat.find hex, fun q hq => Bool.eq_true_of_not_eq_false (Nat.find_min hex hq), Nat.find_spec hex⟩

/-- Neighbours are neighbours in either order. -/
theorem NeighbourAt.symm (h : NeighbourAt i j X Y) :
    NeighbourAt i j Y X := by
  obtain ⟨hflip, hones⟩ := h
  refine ⟨fun l b => by rw [hflip, Bool.xor_assoc, Bool.xor_self, Bool.xor_false], fun b hb => ?_⟩
  rw [hflip, hflip, hones b hb]
  simp [hb.le]

/-- The one of two neighbours with 0 at the carry is the smaller one, by 1. -/
theorem NeighbourAt.toNat_succ (h : NeighbourAt i j X Y)
    (hzero : (X.get j).getLsbD i = false) : (X.get j).toNat + 1 = (Y.get j).toNat := by
  obtain ⟨hflip, hones⟩ := h
  have hlow : ∀ b, b < i → (X.get j).toNat.testBit b = true := fun b hb => by
    rw [BitVec.testBit_toNat, hones b hb, hzero, Bool.not_false]
  refine Nat.eq_of_testBit_eq fun b => ?_
  rw [testBit_succ_of_carry hlow (BitVec.testBit_toNat _ ▸ hzero), BitVec.testBit_toNat, BitVec.testBit_toNat, hflip]
  simp

/-- Neighbours differ by exactly 1 in their lane. -/
theorem NeighbourAt.toNat_adjacent (h : NeighbourAt i j X Y) :
    (X.get j).toNat + 1 = (Y.get j).toNat ∨ (Y.get j).toNat + 1 = (X.get j).toNat := by
  cases hbit : (X.get j).getLsbD i with
  | false => exact .inl (h.toNat_succ hbit)
  | true => exact .inr (h.symm.toNat_succ (by simp [h.flips j i, hbit]))

/-- Neighbours are equal in every other lane. -/
theorem NeighbourAt.get_other {l : Fin N} (h : NeighbourAt i j X Y) (hl : l ≠ j) :
    X.get l = Y.get l := by
  refine BitVec.eq_of_getLsbD_eq fun b _ => ?_
  rw [h.flips l b, decide_eq_false (not_and_of_not_left _ hl), Bool.xor_false]

/-- Neighbouring indices decode to neighbouring tuples, at every W and N (R170). -/
theorem exists_neighbourAt_hilbertDecode {k : Nat} (hk : k + 1 < 2 ^ (W * N)) :
    ∃ i j, NeighbourAt i j (hilbertDecode (BitVec.ofNat (W * N) k) : Lanes W N)
      (hilbertDecode (BitVec.ofNat (W * N) (k + 1))) := by
  obtain ⟨p, hones, hzero⟩ := exists_lowest_zero k
  have hsucc := testBit_succ_of_carry hones hzero
  have hp : p < W * N := by
    have hbit : (k + 1).testBit p = true := by rw [hsucc, hzero, decide_eq_true (Nat.le_refl p), Bool.false_xor]
    exact (Nat.pow_lt_pow_iff_right Nat.one_lt_two).mp ((Nat.ge_two_pow_of_testBit hbit).trans_lt hk)
  have hcarry : ∀ q, (BitVec.ofNat (W * N) (k + 1)).getLsbD q =
      ((BitVec.ofNat (W * N) k).getLsbD q ^^ decide (q ≤ p)) := fun q => by
    rw [BitVec.getLsbD_ofNat, BitVec.getLsbD_ofNat, hsucc]
    by_cases hq : q < W * N
    · simp [hq]
    · simp [hq, show ¬q ≤ p by omega]
  have hgray : SingleBelow p (grayEncode (BitVec.ofNat (W * N) k)) :=
    singleBelow_grayEncode
      (fun q hq => by rw [BitVec.getLsbD_ofNat, decide_eq_true (hq.trans hp), hones q hq, Bool.and_true])
      (by rw [BitVec.getLsbD_ofNat, hzero, Bool.and_false])
  obtain ⟨i, hi, j, rfl⟩ := exists_lane_position hp
  have hflip := flippedAt_deinterleave hi (grayEncode_getLsbD_of_carry hcarry)
  have hlevel := hflip.neighbourAt_rotInvLevels hi.le (fun l b => deinterleave_getLsbD_below hi.le hgray l)
    (deinterleave_getLsbD_digit hi hgray)
  obtain ⟨j', hj'⟩ := hlevel.exists_rotInvLevels (Nat.le_sub_one_of_lt hi) (W.sub_le 1)
  exact ⟨i, j', hj'⟩

end Sys2Proof.Machine

namespace Sys2Proof.Proofs

open Sys2Proof.Machine

/-- Settles O53: it holds, at every W and N; a decoded lane's step is a carry, up or down. -/
theorem hilbertAdjacentIndicesAreNeighbours : Obligations.HilbertAdjacentIndicesAreNeighbours := by
  intro sh k hk
  obtain ⟨i, j, h⟩ := exists_neighbourAt_hilbertDecode hk
  exact ⟨j, h.toNat_adjacent, fun l hl => h.get_other hl⟩

end Sys2Proof.Proofs
end

section
/-! The commands without operands (R192, R196): the one word of a command, and NOP. -/

namespace Sys2Proof

/-- A well-formed command has one word: its own encoding (R80, R91). -/
theorem decodeWord_ok_iff_eq_encode {i : Instr} (hi : i.wellFormed = true) (w : CmdWord) :
    decodeWord w = .ok i ↔ w = encode i := by
  constructor
  · intro h
    obtain ⟨-, hword⟩ := Proofs.encodeGivesBackTheDecoded w i h
    exact hword.symm
  · rintro rfl
    exact decodeWord_encode hi

/-- Only the word 0 has OP 0 and no bit outside OP (R91, R192). -/
theorem eq_zero_of_nop_mask {w : CmdWord} (hop : opOf w = 0) (hused : w &&& ~~~Opcode.nop.usedMask = 0#32) : w = 0 :=
  calc w = w &&& 0x1F#32 := (and_eq_self_of_and_not_eq_zero hused).symm
    _ = BitVec.ofNat 32 (opOf w) := (ofNat_opOf w).symm
    _ = 0 := by rw [hop]; rfl

end Sys2Proof

namespace Sys2Proof.Proofs

open Sys2Proof.Machine Sys2Proof.Safety

/-- Settles O24: NOP's own effect is none, and a second word of OP 0 has an unused bit set. -/
theorem nopOnlyClearsTheError : Obligations.NopOnlyClearsTheError := by
  refine ⟨fun s => ⟨_, rfl, ⟨rfl, ⟨rfl, rfl, rfl⟩, ⟨rfl, rfl⟩, ⟨rfl, rfl, rfl, rfl⟩, rfl, rfl⟩, rfl⟩,
    decodeWord_ok_iff_eq_encode rfl, fun w hop hne => ?_⟩
  rw [← opOf_eq_mod] at hop
  exact decodeWord_unusedBits (o := .nop) hop fun hused => hne (eq_zero_of_nop_mask hop hused)

end Sys2Proof.Proofs
end

section
/-! The width table (R190, R191): the table and its inverse as the one row that a lane width or a code-word width
selects at a lane count, and the rows' bounds. -/

namespace Sys2Proof.Machine

open Sys2Proof.Safety

/-- A lane width is its number of bits (R83). -/
theorem LaneWidth.bits_injective : Function.Injective LaneWidth.bits := by
  intro v w h
  cases v <;> cases w <;> revert h <;> decide

/-- A code-word width is its number of bits (R83). -/
theorem CodeWidth.bits_injective : Function.Injective CodeWidth.bits := by
  intro c d h
  cases c <;> cases d <;> revert h <;> decide

/-- Two rows that share a lane count, and the lane width or the code-word width, are one row (R190, R191). -/
theorem widthRows_unique : ∀ r ∈ widthRows, ∀ r' ∈ widthRows, r.lo ≤ r'.hi → r'.lo ≤ r.hi → r.w = r'.w ∨ r.c = r'.c →
    r = r' := by decide

/-- A row the table finds for a pair holds that pair (R190). -/
theorem mem_of_find_widthRows {w : LaneWidth} {n : Nat} {r : WidthRow}
    (h : (widthRows.find? fun r => decide (r.w = w ∧ r.lo ≤ n ∧ n ≤ r.hi)) = some r) :
    r ∈ widthRows ∧ r.w = w ∧ r.lo ≤ n ∧ n ≤ r.hi := by
  have hrow := List.find?_some h
  exact ⟨List.mem_of_find?_eq_some h, of_decide_eq_true hrow⟩

/-- The table's entry is that of the row which holds the pair (R190). -/
theorem table_eq_some_iff {w : LaneWidth} {n : Nat} {c : CodeWidth} :
    table w n = some c ↔ ∃ r ∈ widthRows, r.w = w ∧ r.c = c ∧ r.lo ≤ n ∧ n ≤ r.hi := by
  rw [table, Option.map_eq_some_iff]
  constructor
  · rintro ⟨r, hr, hc⟩
    obtain ⟨hmem, hw, hlo, hhi⟩ := mem_of_find_widthRows hr
    exact ⟨r, hmem, hw, hc, hlo, hhi⟩
  · rintro ⟨r, hmem, hw, hc, hlo, hhi⟩
    have hsome : (widthRows.find? fun r => decide (r.w = w ∧ r.lo ≤ n ∧ n ≤ r.hi)).isSome :=
      List.find?_isSome.mpr ⟨r, hmem, decide_eq_true ⟨hw, hlo, hhi⟩⟩
    obtain ⟨r', hr'⟩ := Option.isSome_iff_exists.mp hsome
    obtain ⟨hmem', hw', hlo', hhi'⟩ := mem_of_find_widthRows hr'
    obtain rfl := widthRows_unique r hmem r' hmem' (hlo.trans hhi') (hlo'.trans hhi) (.inl (hw.trans hw'.symm))
    exact ⟨r, hr', hc⟩

/-- The rows in numbers are the rows (R190). -/
theorem tableIs_iff {W n C : Nat} :
    TableIs W n C ↔ ∃ r ∈ widthRows, r.w.bits = W ∧ r.c.bits = C ∧ r.lo ≤ n ∧ n ≤ r.hi := by
  have hrows : tableRows = widthRows.map fun r => (r.w.bits, r.lo, r.hi, r.c.bits) := rfl
  rw [TableIs, hrows]
  constructor
  · rintro ⟨lo, hi, hmem, hlo, hhi⟩
    obtain ⟨r, hr, heq⟩ := List.mem_map.mp hmem
    cases heq
    exact ⟨r, hr, rfl, rfl, hlo, hhi⟩
  · rintro ⟨r, hr, rfl, rfl, hlo, hhi⟩
    exact ⟨r.lo, r.hi, List.mem_map.mpr ⟨r, hr, rfl⟩, hlo, hhi⟩

/-- The table is the rows in numbers (R190). -/
theorem table_eq_some_iff_tableIs {w : LaneWidth} {n : Nat} {c : CodeWidth} :
    table w n = some c ↔ TableIs w.bits n c.bits := by
  simp only [table_eq_some_iff, tableIs_iff, LaneWidth.bits_injective.eq_iff, CodeWidth.bits_injective.eq_iff]

/-- The table is defined at every admissible pair (R8, R190). -/
theorem LaneShape.table_ne_none (sh : LaneShape) : table sh.w sh.n ≠ none := by
  obtain ⟨w, n, hone, hmax, hfits⟩ := sh
  have hn : n < 17 := Nat.lt_succ_of_le hmax
  have hall : ∀ n < 17, 1 ≤ n → n * w.bits ≤ 128 → table w n ≠ none := by cases w <;> decide
  exact hall n hn hone hfits

/-- The pair of every table entry is admissible (R8, R190). -/
theorem exists_shape_of_table {w : LaneWidth} {n : Nat} {c : CodeWidth} (h : table w n = some c) :
    ∃ sh : LaneShape, sh.w = w ∧ sh.n = n := by
  have hrows : ∀ r ∈ widthRows, 1 ≤ r.lo ∧ r.hi ≤ 16 := by decide
  obtain ⟨r, hr, -, -, hlo, hhi⟩ := table_eq_some_iff.mp h
  obtain ⟨hone, hmax⟩ := hrows r hr
  exact ⟨⟨w, n, hone.trans hlo, hhi.trans hmax, table_fits h⟩, rfl, rfl⟩

/-- A code-word width holds every tuple of its row (R190). -/
theorem table_le_bits {w : LaneWidth} {n : Nat} {c : CodeWidth} (h : table w n = some c) : n * w.bits ≤ c.bits := by
  have hrows : ∀ r ∈ widthRows, r.hi * r.w.bits ≤ r.c.bits := by decide
  obtain ⟨r, hr, rfl, rfl, -, hhi⟩ := table_eq_some_iff.mp h
  exact (Nat.mul_le_mul_right _ hhi).trans (hrows r hr)

/-- A smaller standard width would hold not even the shortest tuple of its row (R190). -/
theorem table_bits_le {w : LaneWidth} {n : Nat} {c : CodeWidth} (h : table w n = some c) (c' : CodeWidth)
    (hc' : n * w.bits ≤ c'.bits) : c.bits ≤ c'.bits := by
  have hrows : ∀ r ∈ widthRows, r.lo * r.w.bits ≤ c'.bits → r.c.bits ≤ c'.bits := by cases c' <;> decide
  obtain ⟨r, hr, rfl, rfl, hlo, -⟩ := table_eq_some_iff.mp h
  exact hrows r hr ((Nat.mul_le_mul_right _ hlo).trans hc')

/-- At one lane count, no two lane widths have one code-word width (R191). -/
theorem table_left_injective {v w : LaneWidth} {n : Nat} {c : CodeWidth} (hv : table v n = some c)
    (hw : table w n = some c) : v = w := by
  obtain ⟨r, hr, rfl, hc, hlo, hhi⟩ := table_eq_some_iff.mp hv
  obtain ⟨r', hr', rfl, hc', hlo', hhi'⟩ := table_eq_some_iff.mp hw
  rw [widthRows_unique r hr r' hr' (hlo.trans hhi') (hlo'.trans hhi) (.inr (hc.trans hc'.symm))]

/-- DecW is the inverse of the table at each lane count (R191). -/
theorem decW_eq_some_iff {w : LaneWidth} {n : Nat} {c : CodeWidth} : decW c n = some w ↔ table w n = some c := by
  refine ⟨table_of_decW, fun h => ?_⟩
  have hmem : w ∈ [LaneWidth.w8, .w16, .w32, .w64] := by cases w <;> decide
  obtain ⟨v, hv⟩ : ∃ v, decW c n = some v :=
    Option.isSome_iff_exists.mp (List.find?_isSome.mpr ⟨w, hmem, decide_eq_true h⟩)
  rw [hv, table_left_injective (table_of_decW hv) h]

end Sys2Proof.Machine

namespace Sys2Proof.Proofs

open Sys2Proof.Machine Sys2Proof.Safety

/-- Settles O46: each part is a fact about the row that holds the pair. -/
theorem widthTableIsTheSmallestStandardWidth : Obligations.WidthTableIsTheSmallestStandardWidth := by
  refine ⟨fun w n c => table_eq_some_iff_tableIs, fun w n => ⟨fun h => ?_, fun ⟨hone, hmax, hfits⟩ => ?_⟩,
    fun w n c h => ⟨table_le_bits h, table_bits_le h⟩, fun w n c => decW_eq_some_iff⟩
  · obtain ⟨c, hc⟩ := Option.ne_none_iff_exists'.mp h
    obtain ⟨sh, rfl, rfl⟩ := exists_shape_of_table hc
    exact ⟨sh.one_le, sh.le_max, sh.fits⟩
  · exact LaneShape.table_ne_none ⟨w, n, hone, hmax, hfits⟩

end Sys2Proof.Proofs
end

section
/-! The binds (R193, R194): the descriptor that operands make which pass every check, and the raise of the first check
that fails. -/

namespace Sys2Proof.Machine

open Sys2Proof.Safety

/-- Every kind code up to 1 is that of a codec (R82). -/
theorem CodecKind.ofCode?_of_le {kind : Nat} (h : kind ≤ 1) :
    ∃ k : CodecKind, CodecKind.ofCode? kind = some k ∧ k.code.toNat = kind := by
  obtain rfl | rfl : kind = 0 ∨ kind = 1 := by omega
  all_goals exact ⟨_, rfl, rfl⟩

/-- No codec has a kind code above 1 (R82). -/
theorem CodecKind.ofCode?_eq_none {kind : Nat} (h : kind > 1) : CodecKind.ofCode? kind = none := by
  obtain ⟨m, rfl⟩ := Nat.exists_eq_add_of_le' h
  rfl

/-- The code-word width of a width code (R83). -/
theorem CodeWidth.ofCode?_of_code {cc C : Nat} (h : WidthCode cc C) :
    ∃ c : CodeWidth, CodeWidth.ofCode? cc = some c ∧ c.bits = C ∧ c.code.toNat = cc := by
  rcases h with (⟨rfl, rfl⟩ | ⟨rfl, rfl⟩ | ⟨rfl, rfl⟩ | ⟨rfl, rfl⟩) | ⟨rfl, rfl⟩ <;> exact ⟨_, rfl, rfl, rfl⟩

/-- Every width code up to 4 is that of a code-word width (R83). -/
theorem CodeWidth.ofCode?_of_le {cc : Nat} (h : cc ≤ 4) : ∃ c : CodeWidth, CodeWidth.ofCode? cc = some c := by
  obtain rfl | rfl | rfl | rfl | rfl : cc = 0 ∨ cc = 1 ∨ cc = 2 ∨ cc = 3 ∨ cc = 4 := by omega
  all_goals exact ⟨_, rfl⟩

/-- No code-word width has a width code above 4 (R83). -/
theorem CodeWidth.ofCode?_eq_none {cc : Nat} (h : cc > 4) : CodeWidth.ofCode? cc = none := by
  obtain ⟨m, rfl⟩ := Nat.exists_eq_add_of_le' h
  rfl

/-- The code of the lane width with the given bits (R83). -/
theorem LaneWidth.toNat_code_of_bits {wc : Nat} {w : LaneWidth} (h : LaneWidthCode wc w.bits) : w.code.toNat = wc := by
  rcases h with ⟨rfl, hbits⟩ | ⟨rfl, hbits⟩ | ⟨rfl, hbits⟩ | ⟨rfl, hbits⟩ <;> cases w <;> cases hbits <;> rfl

/-- The lane widths without a float type, by their bits (R8, R195). -/
theorem LaneWidth.not_isFloat_of_bits {w : LaneWidth} (h : w.bits = 8 ∨ w.bits = 16) : w.isFloat = false := by
  cases w <;> revert h <;> decide

/-- A representation fits every lane width, but FLOAT only 32 and 64 bits (R193). -/
theorem ElemRepr.fits_of_bits {r : ElemRepr} {w : LaneWidth} (h : r.code.toNat = 2 → w.bits = 32 ∨ w.bits = 64) :
    r.fits w = true := by
  cases r with
  | uint => rfl
  | sint => rfl
  | float => exact LaneWidth.isFloat_of_bits (h rfl)

/-- The pair of a row of the width table, as a lane shape (R8, R190). -/
theorem exists_shape_of_tableIs {W n : Nat} {c : CodeWidth} (h : TableIs W n c.bits) :
    ∃ sh : LaneShape, sh.W = W ∧ sh.n = n ∧ table sh.w sh.n = some c := by
  obtain ⟨r, -, rfl, -, -, -⟩ := tableIs_iff.mp h
  have htab := table_eq_some_iff_tableIs.mpr h
  obtain ⟨sh, hw, rfl⟩ := exists_shape_of_table htab
  exact ⟨sh, congrArg LaneWidth.bits hw, rfl, hw ▸ htab⟩

/-- The descriptor BINDE makes of a shape (R193). -/
def LaneShape.encodeDescriptor (sh : LaneShape) (k : CodecKind) (r : ElemRepr) (c : CodeWidth) : Desc where
  kind := k
  dir := .encode
  wc := sh.w
  n := BitVec.ofNat 5 sh.n
  repr := r
  cc := c
  rf := false
  ru := false

/-- The descriptor BINDD makes of a shape (R194). -/
def LaneShape.decodeDescriptor (sh : LaneShape) (k : CodecKind) (c : CodeWidth) (rf ru : Bool) : Desc where
  kind := k
  dir := .decode
  wc := sh.w
  n := BitVec.ofNat 5 sh.n
  repr := decodeRepr rf ru
  cc := c
  rf := rf
  ru := ru

/-- The lane count of BINDE's descriptor (R26, R193). -/
theorem LaneShape.encodeDescriptor_n (sh : LaneShape) (k : CodecKind) (r : ElemRepr) (c : CodeWidth) :
    (sh.encodeDescriptor k r c).n.toNat = sh.n := toNat_ofNat_laneCount sh.le_max

/-- The lane count of BINDD's descriptor (R26, R194). -/
theorem LaneShape.decodeDescriptor_n (sh : LaneShape) (k : CodecKind) (c : CodeWidth) (rf ru : Bool) :
    (sh.decodeDescriptor k c rf ru).n.toNat = sh.n := toNat_ofNat_laneCount sh.le_max

/-- The representation of BINDD's descriptor (R85, R194). -/
theorem LaneShape.decodeDescriptor_repr (sh : LaneShape) (k : CodecKind) (c : CodeWidth) (rf ru : Bool) :
    (sh.decodeDescriptor k c rf ru).repr.code.toNat = if rf then 2 else if ru then 0 else 1 := by
  cases rf <;> cases ru <;> rfl

/-- A shape passes the check of N (R8). -/
theorem LaneShape.count_in_range (sh : LaneShape) : ¬(sh.n < 1 ∨ sh.n > 16) :=
  not_or.mpr ⟨Nat.not_lt.mpr sh.one_le, Nat.not_lt.mpr sh.le_max⟩

/-- BINDE on operands that pass its checks (R193). -/
theorem exec_binde {kind wc repr : Nat} {k : CodecKind} {sh : LaneShape} {r : ElemRepr} {c : CodeWidth} (s : State)
    (hk : CodecKind.ofCode? kind = some k) (hsh : laneShape wc sh.n = .ok sh) (hr : ElemRepr.ofCode? repr = some r)
    (hfits : r.fits sh.w = true) (htab : table sh.w sh.n = some c) :
    exec (.binde kind wc sh.n repr) s = .next (s.bindTo (sh.encodeDescriptor k r c) true).complete := by
  refine finish_map_ok _ s _ ?_
  simp only [encodeDesc, hk, hsh, hr, hfits, htab, Bool.true_eq_false, if_false, LaneShape.encodeDescriptor]

/-- BINDD on operands that pass its checks (R194). -/
theorem exec_bindd {kind wc : Nat} {k : CodecKind} {sh : LaneShape} {c : CodeWidth} {rf : Bool} (ru : Bool) (s : State)
    (hk : CodecKind.ofCode? kind = some k) (hc : CodeWidth.ofCode? wc = some c) (htab : table sh.w sh.n = some c)
    (hfloat : rf = true → sh.w.isFloat = true) :
    exec (.bindd kind wc sh.n rf ru) s = .next (s.bindTo (sh.decodeDescriptor k c rf ru) true).complete := by
  have hfit : ¬(rf = true ∧ sh.w.isFloat = false) := fun ⟨hrf, hw⟩ => absurd (hfloat hrf) (by rw [hw]; decide)
  refine finish_map_ok _ s _ ?_
  simp only [decodeDesc, hk, hc, if_neg sh.count_in_range, decW_eq_some_iff.mpr htab, if_neg hfit,
    LaneShape.decodeDescriptor]

/-- BINDE's descriptor as the host reads it (R26, R193). -/
theorem LaneShape.encodeDescriptor_reads (sh : LaneShape) (k : CodecKind) (r : ElemRepr) (c : CodeWidth) :
    DescReads (sh.encodeDescriptor k r c) k.code.toNat 0 sh.w.code.toNat sh.n r.code.toNat c.code.toNat 0 0 := by
  have hreads := (sh.encodeDescriptor k r c).word_reads
  rwa [sh.encodeDescriptor_n k r c] at hreads

/-- BINDD's descriptor as the host reads it (R26, R194). -/
theorem LaneShape.decodeDescriptor_reads (sh : LaneShape) (k : CodecKind) (c : CodeWidth) (rf ru : Bool) :
    DescReads (sh.decodeDescriptor k c rf ru) k.code.toNat 1 sh.w.code.toNat sh.n
      (if rf then 2 else if ru then 0 else 1) c.code.toNat rf.toNat ru.toNat := by
  have hreads := (sh.decodeDescriptor k c rf ru).word_reads
  rwa [sh.decodeDescriptor_n k c rf ru, sh.decodeDescriptor_repr k c rf ru] at hreads

/-- A bind that completes sets BOUND and changes nothing else but DESC, ERR and CAUSE (R193, R194, R236). -/
theorem bindTo_frame (s : State) (d : Desc) :
    (s.bindTo d true).complete.status.bound = true ∧ SameData s (s.bindTo d true).complete ∧
      (s.bindTo d true).complete.nullm = s.nullm ∧ SameFlags s (s.bindTo d true).complete ∧
      Completed s (s.bindTo d true).complete ∧ SameBus s (s.bindTo d true).complete :=
  ⟨rfl, ⟨rfl, rfl⟩, rfl, ⟨rfl, rfl⟩, ⟨rfl, rfl, rfl, rfl⟩, rfl, rfl⟩

/-- A bind that raises a DomainError or an InternalError releases the descriptor and changes nothing else but what R232
records (R233). -/
theorem bindRejected_of_raise {i : Instr} {s : State} {e : CmdError} (h : exec i s = .next (s.raise i e))
    (hi : i.opcode = .binde ∨ i.opcode = .bindd) (he : e.cls = .domain ∨ e.cls = .internal) :
    BindRejected i e.cls.code.toNat e.cause.toNat s := by
  have hexec : i ≠ .exec := by rintro rfl; simp [Instr.opcode] at hi
  obtain ⟨herr, hcause, herrs, hecmd⟩ := s.raise_records i e
  obtain ⟨hcw, hlanes, hnullm, hpending, hreply, hbitv⟩ := s.raise_frame i e
  obtain ⟨hdesc, hbound⟩ := s.raise_releases hi he
  exact ⟨_, h, ⟨congrArg _ herr, congrArg _ hcause, herrs, hecmd⟩, by rw [hdesc]; decide, hbound, ⟨hcw, hlanes⟩,
    hnullm, ⟨s.raise_onull e hexec, hbitv⟩, hpending, hreply⟩

/-- BINDE raises the first of its checks that fails (R193, R233). -/
theorem binde_rejected {kind wc n repr : Nat} {e : CmdError} (s : State) (h : encodeDesc kind wc n repr = .error e) :
    BindRejected (.binde kind wc n repr) e.cls.code.toNat e.cause.toNat s :=
  bindRejected_of_raise (finish_map_error _ s _ h) (.inl rfl) (.inl (encodeDesc_error_cls h))

/-- BINDD raises the first of its checks that fails (R194, R233). -/
theorem bindd_rejected {kind wc n : Nat} {rf ru : Bool} {e : CmdError} (s : State)
    (h : decodeDesc kind wc n rf ru = .error e) :
    BindRejected (.bindd kind wc n rf ru) e.cls.code.toNat e.cause.toNat s :=
  bindRejected_of_raise (finish_map_error _ s _ h) (.inr rfl) (decodeDesc_error_cls h)

/-- BINDE's first check (R193, R234). -/
theorem encodeDesc_unknownKind {kind : Nat} (wc n repr : Nat) (h : kind > 1) :
    encodeDesc kind wc n repr = .error .unknownKind := by
  rw [encodeDesc, CodecKind.ofCode?_eq_none h]

/-- BINDE's lane checks come second (R193, R234). -/
theorem encodeDesc_laneShape {kind wc n : Nat} {e : CmdError} (repr : Nat) (hkind : kind ≤ 1)
    (h : laneShape wc n = .error e) : encodeDesc kind wc n repr = .error e := by
  obtain ⟨k, hk, -⟩ := CodecKind.ofCode?_of_le hkind
  simp only [encodeDesc, hk, h]

/-- BINDE's check of REPR (R193, R234). -/
theorem encodeDesc_reprCode {kind wc n W repr : Nat} (hkind : kind ≤ 1) (hops : LaneOperands wc n W)
    (hrepr : repr ≥ 3) : encodeDesc kind wc n repr = .error .reprCode := by
  obtain ⟨k, hk, -⟩ := CodecKind.ofCode?_of_le hkind
  obtain ⟨sh, hsh, -, -⟩ := laneShape_of_operands hops
  simp only [encodeDesc, hk, hsh, ElemRepr.ofCode?_eq_none hrepr]

/-- BINDE's check of FLOAT (R193, R234). -/
theorem encodeDesc_floatWidth {kind wc n W : Nat} (hkind : kind ≤ 1) (hops : LaneOperands wc n W)
    (hW : W = 8 ∨ W = 16) : encodeDesc kind wc n 2 = .error .floatWidth := by
  obtain ⟨k, hk, -⟩ := CodecKind.ofCode?_of_le hkind
  obtain ⟨sh, hsh, -, rfl⟩ := laneShape_of_operands hops
  have hfits : ElemRepr.float.fits sh.w = false := LaneWidth.not_isFloat_of_bits hW
  simp only [encodeDesc, hk, hsh, ElemRepr.ofCode?, hfits, if_true]

/-- BINDD's first check (R194, R234). -/
theorem decodeDesc_unknownKind {kind : Nat} (wc n : Nat) (rf ru : Bool) (h : kind > 1) :
    decodeDesc kind wc n rf ru = .error .unknownKind := by
  rw [decodeDesc, CodecKind.ofCode?_eq_none h]

/-- BINDD's check of the code of C (R194, R234). -/
theorem decodeDesc_codeWidth {kind wc : Nat} (n : Nat) (rf ru : Bool) (hkind : kind ≤ 1) (h : wc > 4) :
    decodeDesc kind wc n rf ru = .error .codeWidth := by
  obtain ⟨k, hk, -⟩ := CodecKind.ofCode?_of_le hkind
  simp only [decodeDesc, hk, CodeWidth.ofCode?_eq_none h]

/-- BINDD's check of N (R194, R234). -/
theorem decodeDesc_laneCount {kind wc n : Nat} (rf ru : Bool) (hkind : kind ≤ 1) (hwc : wc ≤ 4)
    (h : n < 1 ∨ n > 16) : decodeDesc kind wc n rf ru = .error .laneCount := by
  obtain ⟨k, hk, -⟩ := CodecKind.ofCode?_of_le hkind
  obtain ⟨c, hc⟩ := CodeWidth.ofCode?_of_le hwc
  simp only [decodeDesc, hk, hc, if_pos h]

/-- BINDD's look-up of W (R191, R194). -/
theorem decodeDesc_noLaneWidth {kind wc n C : Nat} (rf ru : Bool) (hkind : kind ≤ 1) (hC : WidthCode wc C)
    (hone : 1 ≤ n) (hmax : n ≤ 16) (h : ∀ W, ¬TableIs W n C) : decodeDesc kind wc n rf ru = .error .noLaneWidth := by
  obtain ⟨k, hk, -⟩ := CodecKind.ofCode?_of_le hkind
  obtain ⟨c, hc, rfl, -⟩ := CodeWidth.ofCode?_of_code hC
  have hn : ¬(n < 1 ∨ n > 16) := by omega
  have hnone : decW c n = none := Option.eq_none_iff_forall_ne_some.mpr fun w hw =>
    h w.bits (table_eq_some_iff_tableIs.mp (table_of_decW hw))
  simp only [decodeDesc, hk, hc, if_neg hn, hnone]

/-- BINDD's check of RF (R194, R234). -/
theorem decodeDesc_floatDecode {kind wc n C W : Nat} (ru : Bool) (hkind : kind ≤ 1) (hC : WidthCode wc C)
    (hrow : TableIs W n C) (hW : W = 8 ∨ W = 16) : decodeDesc kind wc n true ru = .error .floatDecode := by
  obtain ⟨k, hk, -⟩ := CodecKind.ofCode?_of_le hkind
  obtain ⟨c, hc, rfl, -⟩ := CodeWidth.ofCode?_of_code hC
  obtain ⟨sh, rfl, rfl, htab⟩ := exists_shape_of_tableIs hrow
  simp only [decodeDesc, hk, hc, if_neg sh.count_in_range, decW_eq_some_iff.mpr htab,
    LaneWidth.not_isFloat_of_bits hW, and_self, if_true]

end Sys2Proof.Machine

namespace Sys2Proof.Proofs

open Sys2Proof.Machine Sys2Proof.Safety

/-- Settles O35: the descriptor of operands that pass every check, and the check that fails first. -/
theorem bindeBindsAnEncodeDescriptor : Obligations.BindeBindsAnEncodeDescriptor := by
  refine ⟨fun kind wc n repr W C cc s hkind hops hrepr hfloat hrow hcc => ?_, fun kind wc n repr s =>
    ⟨fun hkind => binde_rejected s (encodeDesc_unknownKind wc n repr hkind),
      fun hkind hwc => binde_rejected s (encodeDesc_laneShape repr hkind (laneShape_widthCode n hwc)),
      fun hkind hwc hn => binde_rejected s (encodeDesc_laneShape repr hkind (laneShape_laneCount hwc hn)),
      fun W hkind hW hone hmax hwide =>
        binde_rejected s (encodeDesc_laneShape repr hkind (laneShape_tupleWidth hW hone hmax hwide)),
      fun W hkind hops hrepr => binde_rejected s (encodeDesc_reprCode hkind hops hrepr),
      fun W hkind hops hrepr hW => hrepr ▸ binde_rejected s (encodeDesc_floatWidth hkind hops hW)⟩⟩
  obtain ⟨k, hk, rfl⟩ := CodecKind.ofCode?_of_le hkind
  obtain ⟨sh, hsh, rfl, rfl⟩ := laneShape_of_operands hops
  obtain ⟨r, hr, rfl⟩ := ElemRepr.ofCode?_of_le hrepr
  obtain ⟨c, -, rfl, rfl⟩ := CodeWidth.ofCode?_of_code hcc
  obtain ⟨hwc, -⟩ := hops
  obtain rfl := LaneWidth.toNat_code_of_bits hwc
  exact ⟨_, exec_binde s hk hsh hr (ElemRepr.fits_of_bits hfloat) (table_eq_some_iff_tableIs.mpr hrow),
    sh.encodeDescriptor_reads k r c, bindTo_frame s _⟩

/-- Settles O36: the row that holds C and N gives W, and the checks come in their order. -/
theorem binddBindsADecodeDescriptor : Obligations.BinddBindsADecodeDescriptor := by
  refine ⟨fun kind wc n C W dwc rf ru s hkind hC _ _ hrow hdwc hfloat => ?_, fun kind wc n rf ru s =>
    ⟨fun hkind => bindd_rejected s (decodeDesc_unknownKind wc n rf ru hkind),
      fun hkind hwc => bindd_rejected s (decodeDesc_codeWidth n rf ru hkind hwc),
      fun hkind hwc hn => bindd_rejected s (decodeDesc_laneCount rf ru hkind hwc hn),
      fun C hkind hC hone hmax hnone => bindd_rejected s (decodeDesc_noLaneWidth rf ru hkind hC hone hmax hnone),
      fun C W hkind hC _ _ hrow hrf hW => hrf ▸ bindd_rejected s (decodeDesc_floatDecode ru hkind hC hrow hW)⟩⟩
  obtain ⟨k, hk, rfl⟩ := CodecKind.ofCode?_of_le hkind
  obtain ⟨c, hc, rfl, rfl⟩ := CodeWidth.ofCode?_of_code hC
  obtain ⟨sh, rfl, rfl, htab⟩ := exists_shape_of_tableIs hrow
  obtain rfl := LaneWidth.toNat_code_of_bits hdwc
  exact ⟨_, exec_bindd ru s hk hc htab fun hrf => LaneWidth.isFloat_of_bits (hfloat hrf),
    sh.decodeDescriptor_reads k c rf ru, bindTo_frame s _⟩

end Sys2Proof.Proofs
end

section
/-! EXEC (R196): what it answers on the null path, on a null lane, on an encode and on a decode. -/

namespace Sys2Proof.Machine

open Sys2Proof.Safety

/-- The null bits of the tuple's N lanes (R196, R198). -/
theorem State.nullLanes_getLsbD (s : State) (n j : Nat) :
    (s.nullLanes n).getLsbD j = (s.nullm.ln.getLsbD j && decide (j < n)) := by
  rw [State.nullLanes, BitVec.getLsbD_and, BitVec.getLsbD_ofNat, Nat.testBit_two_pow_sub_one]
  by_cases hj : j < 16
  · rw [decide_eq_true hj, Bool.true_and]
  · rw [BitVec.getLsbD_of_ge _ j (Nat.le_of_not_lt hj), Bool.false_and, Bool.false_and]

/-- The tuple has no null lane when no null bit below N is set (R198). -/
theorem State.nullLanes_eq_zero_iff (s : State) (n : Nat) :
    s.nullLanes n = 0#16 ↔ ∀ j, j < n → s.nullm.ln.getLsbD j = false := by
  constructor
  · intro h j hj
    have hbit := s.nullLanes_getLsbD n j
    rwa [h, BitVec.getLsbD_zero, decide_eq_true hj, Bool.and_true, eq_comm] at hbit
  · refine fun h => BitVec.eq_of_getLsbD_eq fun j _ => ?_
    rw [s.nullLanes_getLsbD, BitVec.getLsbD_zero, Bool.and_eq_false_imp]
    exact fun hnull => decide_eq_false fun hj => absurd ((h j hj).symm.trans hnull) (by decide)

@[simp] theorem codecEncode_hilbert {W N : Nat} (L : Lanes W N) : codecEncode .hilbert L = hilbertEncode L := rfl
@[simp] theorem codecEncode_morton {W N : Nat} (L : Lanes W N) : codecEncode .morton L = mortonEncode L := rfl
@[simp] theorem codecDecode_hilbert {W N : Nat} (Z : BitVec (W * N)) :
    (codecDecode .hilbert Z : Lanes W N) = hilbertDecode Z := rfl
@[simp] theorem codecDecode_morton {W N : Nat} (Z : BitVec (W * N)) :
    (codecDecode .morton Z : Lanes W N) = mortonDecode Z := rfl

/-- What EXEC writes on a null input, ERR and CAUSE aside (R198). -/
def State.markNull (s : State) : State := s.mapStatus fun f => f.setOnull true

/-- What an encode writes, ERR and CAUSE aside (R196). -/
def State.encodeTuple (s : State) (sh : LaneShape) : State :=
  (s.writeCw ((codecEncode s.desc.kind (s.readLanes sh)).setWidth 128)).mapStatus fun f => f.setOnull false

/-- What a decode writes, ERR and CAUSE aside (R196). -/
def State.decodeTuple (s : State) (sh : LaneShape) : State :=
  (s.writeLanes sh (codecDecode s.desc.kind (s.readCode sh))).mapStatus fun f => f.setOnull false

@[simp] theorem State.encodeTuple_cw (s : State) (sh : LaneShape) :
    (s.encodeTuple sh).cw = (codecEncode s.desc.kind (s.readLanes sh)).setWidth 128 := rfl
@[simp] theorem State.encodeTuple_lanes (s : State) (sh : LaneShape) : (s.encodeTuple sh).lanes = s.lanes := rfl

@[simp] theorem State.decodeTuple_cw (s : State) (sh : LaneShape) : (s.decodeTuple sh).cw = s.cw := by
  rw [State.decodeTuple, State.mapStatus_cw, State.writeLanes_cw]
@[simp] theorem State.decodeTuple_nullm (s : State) (sh : LaneShape) : (s.decodeTuple sh).nullm = s.nullm := by
  rw [State.decodeTuple, State.mapStatus_nullm, State.writeLanes_nullm]

@[simp] theorem State.decodeTuple_onull (s : State) (sh : LaneShape) : (s.decodeTuple sh).status.onull = false := by
  rw [State.decodeTuple, State.mapStatus_status, Status.setOnull_onull]

/-- What a null input leaves alone (R198). -/
theorem State.markNull_effect (s : State) : Effect .exec s s.markNull := (Effect.refl _ s).setOnull true

/-- What an encode leaves alone (R196). -/
theorem State.encodeTuple_effect (s : State) (sh : LaneShape) : Effect .exec s (s.encodeTuple sh) :=
  (Effect.writeCw _ s _).setOnull false

/-- What a decode leaves alone (R196). -/
theorem State.decodeTuple_effect (s : State) (sh : LaneShape) : Effect .exec s (s.decodeTuple sh) :=
  (Effect.writeLanes _ s sh _).setOnull false

/-- A lane of a decoded tuple (R25, R196). -/
theorem State.decodeTuple_get_lt (s : State) (sh : LaneShape) (j : Fin 16) (h : j.val < sh.n) :
    (s.decodeTuple sh).lanes[j.val] = ((codecDecode s.desc.kind (s.readCode sh)).get ⟨j.val, h⟩).setWidth 64 :=
  s.writeLanes_get_lt sh (codecDecode s.desc.kind (s.readCode sh)) j h

/-- A decode leaves the lanes from N on (R23, R196). -/
theorem State.decodeTuple_get_ge (s : State) (sh : LaneShape) (j : Fin 16) (h : sh.n ≤ j.val) :
    (s.decodeTuple sh).lanes[j.val] = s.lanes[j.val] :=
  s.writeLanes_get_ge sh (codecDecode s.desc.kind (s.readCode sh)) j h

/-- The codec on a null input (R198). -/
theorem runCodec_null {s : State} (sh : LaneShape) (htn : s.nullm.tn = true) : runCodec s sh = .ok s.markNull := by
  rw [runCodec, if_pos htn, State.markNull]

/-- The codec on a tuple with a null lane (R196, R198). -/
theorem runCodec_nullLane {s : State} {sh : LaneShape} (htn : s.nullm.tn = false) (hdir : s.desc.dir = .encode)
    (hnull : s.nullLanes sh.n ≠ 0#16) : runCodec s sh = .error .nullLane := by
  simp only [runCodec, htn, hdir, if_pos hnull, Bool.false_eq_true, if_false]

/-- The codec on a tuple without nulls (R196). -/
theorem runCodec_encode {s : State} {sh : LaneShape} (htn : s.nullm.tn = false) (hdir : s.desc.dir = .encode)
    (hnull : s.nullLanes sh.n = 0#16) : runCodec s sh = .ok (s.encodeTuple sh) := by
  simp only [runCodec, htn, hdir, hnull, Bool.false_eq_true, if_false, ne_eq, not_true_eq_false, State.encodeTuple]

/-- The codec on a code word that is not null (R196). -/
theorem runCodec_decode {s : State} (sh : LaneShape) (htn : s.nullm.tn = false) (hdir : s.desc.dir = .decode) :
    runCodec s sh = .ok (s.decodeTuple sh) := by
  simp only [runCodec, htn, hdir, Bool.false_eq_true, if_false, State.decodeTuple]

/-- EXEC completes where its codec does (R196, R236). -/
theorem exec_exec_ok {s u : State} {sh : LaneShape} (hb : s.status.bound = true) (hsh : s.desc.shape? = some sh)
    (h : runCodec s sh = .ok u) : exec .exec s = .next u.complete := by
  rw [exec, execExec_of_shape hb hsh, h, finish_ok]

/-- EXEC raises where its codec does (R196, R232). -/
theorem exec_exec_error {s : State} {sh : LaneShape} {e : CmdError} (hb : s.status.bound = true)
    (hsh : s.desc.shape? = some sh) (h : runCodec s sh = .error e) : exec .exec s = .next (s.raise .exec e) := by
  rw [exec, execExec_of_shape hb hsh, h, finish_error]

/-- An EXEC that raises an InputError or an InternalError clears ONULL (R233). -/
theorem State.raise_exec_onull (s : State) {e : CmdError} (he : e.cls = .input ∨ e.cls = .internal) :
    (s.raise .exec e).status.onull = false := by
  rcases he with he | he <;> simp [State.raise, State.onError, State.dropNull, he]

/-- An EXEC that raises an InputError or an InternalError changes nothing but ONULL and what R232 records (R233). -/
theorem execRejected_of_raise {s : State} {e : CmdError} (h : exec .exec s = .next (s.raise .exec e))
    (he : e.cls = .input ∨ e.cls = .internal) : ExecRejected e.cls.code.toNat e.cause.toNat s := by
  obtain ⟨herr, hcause, herrs, hecmd⟩ := s.raise_records .exec e
  obtain ⟨hcw, hlanes, hnullm, hpending, hreply, hbitv⟩ := s.raise_frame .exec e
  obtain ⟨hdesc, hbound⟩ := s.raise_binding (i := .exec) e nofun nofun
  exact ⟨_, h, ⟨congrArg _ herr, congrArg _ hcause, herrs, hecmd⟩, s.raise_exec_onull he, ⟨hcw, hlanes⟩,
    ⟨hdesc, hbound, hnullm⟩, hbitv, hpending, hreply⟩

/-- Besides its data and ONULL, an EXEC that completes writes ERR and CAUSE alone (R196, R236). -/
theorem exec_complete_frame {s u : State} (h : Effect .exec s u) :
    SameBinding s u.complete ∧ u.complete.status.bitv = s.status.bitv ∧ Completed s u.complete ∧
      SameBus s u.complete := by
  obtain ⟨hdesc, hbound⟩ := h.binding nofun nofun
  exact ⟨⟨hdesc, hbound, h.nullm⟩, h.bitv nofun, ⟨rfl, rfl, h.errs, h.ecmd⟩, h.pending, h.reply⟩

end Sys2Proof.Machine

namespace Sys2Proof.Proofs

open Sys2Proof.Machine Sys2Proof.Safety

/-- Settles O37: each outcome is that of `runCodec` on its path. -/
theorem execRunsTheBoundCodec : Obligations.ExecRunsTheBoundCodec := by
  refine ⟨decodeWord_ok_iff_eq_encode (i := .exec) rfl, fun s hb =>
    execRejected_of_raise (e := .unbound) (execExec_unbound hb) (.inr rfl), fun s sh hb hw hn => ?_⟩
  have hsh := (s.desc.shape?_eq_some sh).mpr ⟨hw, hn⟩
  refine ⟨fun htn => ?_, fun htn hdir hnull => ?_, fun htn hdir hnull => ?_, fun htn hdir => ?_⟩
  · exact ⟨_, exec_exec_ok hb hsh (runCodec_null sh htn), rfl, ⟨rfl, rfl⟩, exec_complete_frame s.markNull_effect⟩
  · obtain ⟨j, hj, hbit⟩ := hnull
    have hne : s.nullLanes sh.n ≠ 0#16 := fun hzero =>
      absurd (((s.nullLanes_eq_zero_iff sh.n).mp hzero j hj).symm.trans hbit) (by decide)
    exact execRejected_of_raise (e := .nullLane) (exec_exec_error hb hsh (runCodec_nullLane htn hdir hne)) (.inl rfl)
  · have hrun := runCodec_encode htn hdir ((s.nullLanes_eq_zero_iff sh.n).mpr hnull)
    refine ⟨(s.encodeTuple sh).complete, exec_exec_ok hb hsh hrun, fun hk => ?_, fun hk => ?_, fun b hb => ?_,
      s.encodeTuple_lanes sh, rfl, exec_complete_frame (s.encodeTuple_effect sh)⟩
    · rw [State.complete_cw, State.encodeTuple_cw, hk, codecEncode_hilbert]
    · rw [State.complete_cw, State.encodeTuple_cw, hk, codecEncode_morton]
    · rw [State.complete_cw, State.encodeTuple_cw, getLsbD_setWidth_codeWord sh.codeBits_le]
      exact BitVec.getLsbD_of_ge _ b (Nat.mul_comm sh.n sh.W ▸ hb)
  · refine ⟨(s.decodeTuple sh).complete, exec_exec_ok hb hsh (runCodec_decode sh htn hdir), fun hk => ?_, fun hk => ?_,
      fun j hj => ?_, ?_, ?_, exec_complete_frame (s.decodeTuple_effect sh)⟩
    · intro j hj
      rw [State.complete_lanes, s.decodeTuple_get_lt sh j hj, hk, codecDecode_hilbert]
    · intro j hj
      rw [State.complete_lanes, s.decodeTuple_get_lt sh j hj, hk, codecDecode_morton]
    · rw [State.complete_lanes, s.decodeTuple_get_ge sh j hj]
    · rw [State.complete_cw, State.decodeTuple_cw]
    · rw [State.complete_status, Status.succeeded_onull, State.decodeTuple_onull]

end Sys2Proof.Proofs
end

section
/-! What plays no part in EXEC: the null bits outside the tuple (R198), and REPR, RF and RU (R197). -/

namespace Sys2Proof.Machine

/-- The state with other null bits. -/
def State.withNullBits (s : State) (ln : BitVec 16) : State := { s with nullm := { s.nullm with ln := ln } }

/-- Null bits that agree below N give the tuple the same null lanes (R198). -/
theorem State.nullLanes_congr (s : State) {n : Nat} {ln : BitVec 16}
    (h : ∀ j, j < n → ln.getLsbD j = s.nullm.ln.getLsbD j) :
    (s.withNullBits ln).nullLanes n = s.nullLanes n := by
  refine BitVec.eq_of_getLsbD_eq fun j _ => ?_
  rw [State.nullLanes_getLsbD, State.nullLanes_getLsbD, State.withNullBits]
  by_cases hj : j < n
  · rw [h j hj]
  · rw [decide_eq_false hj, Bool.and_false, Bool.and_false]

/-- A change of registers that the codec reads nothing of goes through its run, if it goes through each of its ends. -/
theorem runCodec_commutes {s : State} {sh : LaneShape} {f : State → State} (htn : (f s).nullm.tn = s.nullm.tn)
    (hdir : (f s).desc.dir = s.desc.dir)
    (hnull : s.desc.dir = .encode → (f s).nullLanes sh.n = s.nullLanes sh.n)
    (hmark : (f s).markNull = f s.markNull) (hencode : (f s).encodeTuple sh = f (s.encodeTuple sh))
    (hdecode : (f s).decodeTuple sh = f (s.decodeTuple sh)) : runCodec (f s) sh = (runCodec s sh).map f := by
  cases htn' : s.nullm.tn with
  | true => rw [runCodec_null sh htn', runCodec_null sh (htn.trans htn'), hmark]; rfl
  | false =>
    cases hdir' : s.desc.dir with
    | decode =>
      rw [runCodec_decode sh htn' hdir', runCodec_decode sh (htn.trans htn') (hdir.trans hdir'), hdecode]; rfl
    | encode =>
      have hnull' := hnull hdir'
      by_cases hn : s.nullLanes sh.n = 0#16
      · rw [runCodec_encode htn' hdir' hn,
          runCodec_encode (htn.trans htn') (hdir.trans hdir') (hnull'.trans hn), hencode]
        rfl
      · rw [runCodec_nullLane htn' hdir' hn,
          runCodec_nullLane (htn.trans htn') (hdir.trans hdir') (hnull'.trans_ne hn)]
        rfl

/-- The state with another representation in its descriptor. -/
def State.withRepr (s : State) (r : ElemRepr) (rf ru : Bool) : State :=
  { s with desc := { s.desc with repr := r, rf := rf, ru := ru } }

/-- The codec sees of the null bits only the null lanes of an encode (R198). -/
theorem runCodec_withNullBits (s : State) (sh : LaneShape) (ln : BitVec 16)
    (h : s.desc.dir = .encode → ∀ j, j < sh.n → ln.getLsbD j = s.nullm.ln.getLsbD j) :
    runCodec (s.withNullBits ln) sh = (runCodec s sh).map fun u => u.withNullBits ln :=
  runCodec_commutes (f := fun u => u.withNullBits ln) rfl rfl (fun hdir => s.nullLanes_congr (h hdir)) rfl rfl rfl

/-- The codec reads neither REPR nor RF nor RU (R197). -/
theorem runCodec_withRepr (s : State) (sh : LaneShape) (r : ElemRepr) (rf ru : Bool) :
    runCodec (s.withRepr r rf ru) sh = (runCodec s sh).map fun u => u.withRepr r rf ru :=
  runCodec_commutes (f := fun u => u.withRepr r rf ru) rfl rfl (fun _ => rfl) rfl rfl rfl

end Sys2Proof.Machine

namespace Sys2Proof.Proofs

open Sys2Proof.Machine Sys2Proof.Safety

/-- Settles O38: the null lanes EXEC finds are the same, and the rest of what it does commutes with the change. -/
theorem nullBitsOutsideTheTupleAreIgnored : Obligations.NullBitsOutsideTheTupleAreIgnored := by
  intro s t ln h hagree
  refine execExec_commutes (f := fun u => u.withNullBits ln) h rfl rfl (fun e => by cases e <;> rfl) (fun _ => rfl)
    fun sh hsh => runCodec_withNullBits s sh ln fun hdir => ?_
  obtain ⟨-, hn⟩ := (s.desc.shape?_eq_some sh).mp hsh
  exact hn ▸ hagree.resolve_left (by rw [hdir]; decide)

/-- Settles O40: the shape and the codec are the same, and no end of EXEC writes DESC. -/
theorem representationPlaysNoPartInExec : Obligations.RepresentationPlaysNoPartInExec := by
  intro s t r rf ru h
  have hrun := fun sh => runCodec_withRepr s sh r rf ru
  rcases execExec_cases h with ⟨hb, rfl⟩ | ⟨hb, sh, hsh, ⟨e, he, rfl⟩ | ⟨u, hu, rfl⟩⟩
  · exact execExec_unbound (s := s.withRepr r rf ru) hb
  · obtain ⟨rfl, -⟩ := runCodec_error he
    exact exec_exec_error (s := s.withRepr r rf ru) hb hsh ((hrun sh).trans (by rw [he]; rfl))
  · exact exec_exec_ok (s := s.withRepr r rf ru) hb hsh ((hrun sh).trans (by rw [hu]; rfl))

end Sys2Proof.Proofs
end

section
/-! The round trip through the commands (R201): what a bind followed by EXEC does, in each direction. -/

namespace Sys2Proof.Machine

open Sys2Proof.Safety

/-- Each codec's decoder undoes its encoder (R145, R164). -/
theorem codecDecode_codecEncode {W N : Nat} (k : CodecKind) (L : Lanes W N) : codecDecode k (codecEncode k L) = L := by
  cases k with
  | hilbert => exact hilbertDecode_hilbertEncode L
  | morton => exact deinterleave_interleave L

/-- Each codec's encoder undoes its decoder (R145, R164). -/
theorem codecEncode_codecDecode {W N : Nat} (k : CodecKind) (Z : BitVec (W * N)) :
    codecEncode k (codecDecode k Z : Lanes W N) = Z := by
  cases k with
  | hilbert => exact hilbertEncode_hilbertDecode Z
  | morton => exact interleave_deinterleave Z

/-- The shape of BINDE's descriptor is the one it was made of. -/
theorem LaneShape.encodeDescriptor_shape? (sh : LaneShape) (k : CodecKind) (r : ElemRepr) (c : CodeWidth) :
    (sh.encodeDescriptor k r c).shape? = some sh :=
  (Desc.shape?_eq_some _ sh).mpr ⟨rfl, sh.encodeDescriptor_n k r c⟩

/-- The shape of BINDD's descriptor is the one it was made of. -/
theorem LaneShape.decodeDescriptor_shape? (sh : LaneShape) (k : CodecKind) (c : CodeWidth) (rf ru : Bool) :
    (sh.decodeDescriptor k c rf ru).shape? = some sh :=
  (Desc.shape?_eq_some _ sh).mpr ⟨rfl, sh.decodeDescriptor_n k c rf ru⟩

/-- The null lanes are a matter of NULLM alone (R198). -/
theorem State.nullLanes_eq_of_nullm {s t : State} (n : Nat) (h : t.nullm = s.nullm) :
    t.nullLanes n = s.nullLanes n := by
  simp only [State.nullLanes, h]

/-- EXEC just after BINDE, without nulls: the code of the lanes is in CW, and the lanes and NULLM are left (R196). -/
theorem exec_after_binde {s : State} {sh : LaneShape} (k : CodecKind) (r : ElemRepr) (c : CodeWidth)
    (htn : s.nullm.tn = false) (hnull : s.nullLanes sh.n = 0#16) :
    ∃ t, exec .exec (s.bindTo (sh.encodeDescriptor k r c) true).complete = .next t ∧
      t.cw = (codecEncode k (s.readLanes sh)).setWidth 128 ∧ t.lanes = s.lanes ∧ t.nullm = s.nullm :=
  ⟨_, exec_exec_ok rfl (sh.encodeDescriptor_shape? k r c) (runCodec_encode htn rfl hnull), rfl, rfl, rfl⟩

/-- EXEC just after BINDD, without a null: the tuple of the code in CW is in the lanes, and CW and NULLM are left
(R196). -/
theorem exec_after_bindd {s : State} (sh : LaneShape) (k : CodecKind) (c : CodeWidth) (rf ru : Bool)
    (htn : s.nullm.tn = false) :
    ∃ t, exec .exec (s.bindTo (sh.decodeDescriptor k c rf ru) true).complete = .next t ∧
      t.readLanes sh = codecDecode k (s.readCode sh) ∧ t.cw = s.cw ∧ t.nullm = s.nullm := by
  refine ⟨_, exec_exec_ok rfl (sh.decodeDescriptor_shape? k c rf ru) (runCodec_decode sh htn rfl), ?_, ?_, ?_⟩
  · exact State.readLanes_writeLanes (s.bindTo (sh.decodeDescriptor k c rf ru) true).complete sh _
  · rw [State.complete_cw, State.decodeTuple_cw, State.complete_cw, State.bindTo_cw]
  · rw [State.complete_nullm, State.decodeTuple_nullm, State.complete_nullm, State.bindTo_nullm]

/-- A code in CW is read back at its own shape (R200). -/
theorem State.readCode_of_cw {s : State} {sh : LaneShape} {z : BitVec (sh.W * sh.n)} (h : s.cw = z.setWidth 128) :
    s.readCode sh = z := by
  rw [State.readCode, h, BitVec.setWidth_setWidth_of_le _ sh.codeBits_le, BitVec.setWidth_eq]

/-- A CW below 2^(N·W) is the code it holds, zero-extended (R199, R200). -/
theorem State.setWidth_readCode {s : State} {sh : LaneShape} (h : ∀ b, sh.n * sh.W ≤ b → s.cw.getLsbD b = false) :
    (s.readCode sh).setWidth 128 = s.cw := by
  refine BitVec.eq_of_getLsbD_eq fun b _ => ?_
  rw [getLsbD_setWidth_codeWord sh.codeBits_le, State.readCode, BitVec.getLsbD_setWidth, Bool.and_eq_right_iff_imp,
    decide_eq_true_eq]
  intro hbit
  by_contra hb
  exact absurd ((h b (by rw [Nat.mul_comm]; omega)).symm.trans hbit) (by decide)

end Sys2Proof.Machine

namespace Sys2Proof.Proofs

open Sys2Proof.Machine Sys2Proof.Safety

/-- Settles O57: both binds make the same shape and codec, so the second EXEC undoes the first. -/
theorem commandsRoundTrip : Obligations.CommandsRoundTrip := by
  intro s kind wc n repr W C cc rf ru hkind hops hrepr hfloat hrow hcc hrf htn hnull
  obtain ⟨k, hk, -⟩ := CodecKind.ofCode?_of_le hkind
  obtain ⟨sh, hsh, rfl, rfl⟩ := laneShape_of_operands hops
  obtain ⟨r, hr, rfl⟩ := ElemRepr.ofCode?_of_le hrepr
  obtain ⟨c, hc, rfl, -⟩ := CodeWidth.ofCode?_of_code hcc
  have htab := table_eq_some_iff_tableIs.mpr hrow
  have hbinde := fun t => exec_binde t hk hsh hr (ElemRepr.fits_of_bits hfloat) htab
  have hbindd := fun t => exec_bindd ru t hk hc htab fun h => LaneWidth.isFloat_of_bits (hrf h)
  have hzero := (s.nullLanes_eq_zero_iff sh.n).mpr hnull
  constructor
  · obtain ⟨t, ht, hcw, -, hnullm⟩ := exec_after_binde k r c htn hzero
    obtain ⟨u, hu, hlanes, -, -⟩ := exec_after_bindd sh k c rf ru (hnullm ▸ htn)
    refine ⟨_, t, _, u, hbinde s, ht, hbindd t, hu, fun j i hj hi => ?_⟩
    rw [State.readCode_of_cw hcw, codecDecode_codecEncode] at hlanes
    rw [← u.readLanes_getLsbD sh hi j hj, ← s.readLanes_getLsbD sh hi j hj, hlanes]
  · intro hhigh
    obtain ⟨t, ht, hlanes, -, hnullm⟩ := exec_after_bindd sh k c rf ru htn
    obtain ⟨u, hu, hcw, -, -⟩ :=
      exec_after_binde k r c (hnullm ▸ htn) ((State.nullLanes_eq_of_nullm sh.n hnullm).trans hzero)
    refine ⟨_, t, _, u, hbindd s, ht, hbinde t, hu, ?_⟩
    rw [hcw, hlanes, codecEncode_codecDecode, State.setWidth_readCode hhigh]

end Sys2Proof.Proofs
end

section
/-! How a command ends (60_exceptions.md R231 to R236): by an error R231 lists it under, or completed. -/

namespace Sys2Proof.Machine

open Sys2Proof.Safety

/-- What an error records in (ERR, CAUSE): its row of R231. -/
def CmdError.pair (e : CmdError) : Nat × Nat := (e.cls.code.toNat, e.cause.toNat)

/-- A raise leaves its error's row in (ERR, CAUSE) (R232). -/
theorem State.raise_pair (s : State) (i : Instr) (e : CmdError) :
    ((s.raise i e).status.err.toNat, (s.raise i e).status.cause.toNat) = e.pair := by
  obtain ⟨herr, hcause, -, -⟩ := s.raise_records i e
  rw [herr, hcause, CmdError.pair]

/-- A raise leaves ERR other than 0 (R230, R232). -/
theorem State.raise_err_ne_zero (s : State) (i : Instr) (e : CmdError) : (s.raise i e).status.err ≠ 0 := by
  obtain ⟨herr, -, -, -⟩ := s.raise_records i e
  rw [herr]
  exact e.cls.code_ne_zero

/-- A command that ends with ERR = 0 has completed (R236). -/
theorem exec_completed {i : Instr} {s t : State} (h : exec i s = .next t) (herr : t.status.err = 0) :
    Completed s t := by
  rcases exec_cases h with ⟨e, rfl⟩ | ⟨u, rfl, hu⟩
  · exact absurd herr (s.raise_err_ne_zero i e)
  · exact ⟨rfl, rfl, hu.errs, hu.ecmd⟩

/-- ILV, DIL, ROTF and ROTI: the rows of their checks (R231). -/
theorem laneShape_error_pair {wc n : Nat} {e : CmdError} (h : laneShape wc n = .error e) :
    e.pair ∈ [(1, 2), (1, 3), (1, 4)] := by
  rcases (laneShape_error_iff wc n e).mp h with ⟨-, rfl⟩ | ⟨-, -, -, rfl⟩ | ⟨-, -, -, -, rfl⟩ <;> decide

/-- GRAYE and GRAYD: the row of their check (R231). -/
theorem grayWidth_error_pair {wc : Nat} {e : CmdError} (h : grayWidth wc = .error e) : e.pair ∈ [(1, 2)] := by
  unfold grayWidth at h
  split at h
  · cases h; decide
  · cases h

/-- ORDP and ORDD: the rows of their checks (R231). -/
theorem ordOperands_error_pair {wc repr : Nat} {e : CmdError} (h : ordOperands wc repr = .error e) :
    e.pair ∈ [(1, 2), (1, 5), (1, 6)] := by
  unfold ordOperands at h
  split at h
  · cases h; decide
  split at h
  · cases h; decide
  split at h
  · cases h
  · cases h; decide

/-- BINDE: the rows of its checks (R231). -/
theorem encodeDesc_error_pair {kind wc n repr : Nat} {e : CmdError} (h : encodeDesc kind wc n repr = .error e) :
    e.pair ∈ [(1, 1), (1, 2), (1, 3), (1, 4), (1, 5), (1, 6)] := by
  unfold encodeDesc at h
  split at h
  · cases h; decide
  split at h
  next hsh =>
    cases h
    exact List.mem_cons_of_mem _ (List.mem_append_left [(1, 5), (1, 6)] (laneShape_error_pair hsh))
  split at h
  · cases h; decide
  split at h
  · cases h; decide
  split at h
  · cases h; decide
  · cases h

/-- BINDD: the rows of its checks (R231). -/
theorem decodeDesc_error_pair {kind wc n : Nat} {rf ru : Bool} {e : CmdError}
    (h : decodeDesc kind wc n rf ru = .error e) : e.pair ∈ [(1, 1), (1, 3), (1, 7), (1, 8), (3, 1)] := by
  unfold decodeDesc at h
  split at h
  · cases h; decide
  split at h
  · cases h; decide
  split at h
  · cases h; decide
  split at h
  · cases h; decide
  split at h
  · cases h; decide
  · cases h

/-- A completed command has ERR = 0 (R236). -/
theorem ne_complete_of_err {t : State} (herr : t.status.err ≠ 0) (u : State) : t ≠ u.complete := by
  rintro rfl
  exact herr rfl

/-- A command that takes its operands from checks raises only the errors of those checks. -/
theorem finish_map_raises {α : Type} {i : Instr} {s t : State} {x : Except CmdError α} {f : α → State}
    {rows : List (Nat × Nat)} (h : finish i s (x.map f) = .next t) (herr : t.status.err ≠ 0)
    (hx : ∀ {e}, x = .error e → e.pair ∈ rows) : ∃ e : CmdError, e.pair ∈ rows ∧ t = s.raise i e := by
  rcases finish_map_cases h with ⟨e, he, ht⟩ | ⟨a, -, ht⟩
  · exact ⟨e, hx he, ht⟩
  · exact absurd ht (ne_complete_of_err herr _)

/-- A command that ends in an error raises one that R231 lists it under. -/
theorem exec_raises_listed {i : Instr} {s t : State} (h : exec i s = .next t) (herr : t.status.err ≠ 0) :
    ∃ e : CmdError, e.pair ∈ errorsOf i.opcode ∧ t = s.raise i e := by
  cases i <;> simp only [exec] at h
  case exec =>
    rcases execExec_cases h with ⟨-, ht⟩ | ⟨-, sh, -, ⟨e, he, ht⟩ | ⟨u, -, ht⟩⟩
    · exact ⟨.unbound, by decide, ht⟩
    · obtain ⟨rfl, -⟩ := runCodec_error he
      exact ⟨.nullLane, by decide, ht⟩
    · exact absurd ht (ne_complete_of_err herr u)
  case nop => exact absurd (Host.Outcome.next.inj h).symm (ne_complete_of_err herr _)
  case getb => exact absurd (Host.Outcome.next.inj h).symm (ne_complete_of_err herr _)
  case setb => exact absurd (Host.Outcome.next.inj h).symm (ne_complete_of_err herr _)
  case binde => exact finish_map_raises h herr encodeDesc_error_pair
  case bindd => exact finish_map_raises h herr decodeDesc_error_pair
  case graye => exact finish_map_raises h herr grayWidth_error_pair
  case grayd => exact finish_map_raises h herr grayWidth_error_pair
  case ordp => exact finish_map_raises h herr ordOperands_error_pair
  case ordd => exact finish_map_raises h herr ordOperands_error_pair
  case ilv => exact finish_map_raises h herr laneShape_error_pair
  case dil => exact finish_map_raises h herr laneShape_error_pair
  case rotf => exact finish_map_raises h herr laneShape_error_pair
  case roti => exact finish_map_raises h herr laneShape_error_pair

/-- EXEC's errors are of the two classes that clear ONULL (R231, R233). -/
theorem CmdError.cls_of_exec {e : CmdError} (h : e.pair ∈ errorsOf .exec) : e.cls = .input ∨ e.cls = .internal := by
  revert h
  cases e <;> decide

/-- An EXEC that ends in an error clears ONULL (R233). -/
theorem exec_clears_onull_of_err {s t : State} (h : exec .exec s = .next t) (herr : t.status.err ≠ 0) :
    t.status.onull = false := by
  obtain ⟨e, he, rfl⟩ := exec_raises_listed h herr
  exact s.raise_exec_onull (CmdError.cls_of_exec he)

end Sys2Proof.Machine

namespace Sys2Proof.Proofs

open Sys2Proof.Machine Sys2Proof.Safety

/-- Settles O41: a failing command is a raise in the state it began in, and an illegal word records its error alone. -/
theorem failingCommandsChangeOnlyTheErrorRegisters : Obligations.FailingCommandsChangeOnlyTheErrorRegisters := by
  refine ⟨fun i s t h herr => ?_, fun w s rest hw hp => ?_⟩
  · obtain ⟨e, -, ht⟩ := exec_raises_listed h herr
    obtain ⟨-, -, herrs, hecmd⟩ := s.raise_records i e
    obtain ⟨hcw, hlanes, hnullm, hpending, hreply, hbitv⟩ := s.raise_frame i e
    rw [← ht] at herrs hecmd hcw hlanes hnullm hpending hreply hbitv
    refine ⟨herrs, hecmd, ⟨hcw, hlanes⟩, hnullm, hbitv, ⟨hpending, hreply⟩, fun hi => ?_,
      fun he hd => exec_keeps_binding he hd h, ?_, fun hi => exec_keeps_onull hi h⟩
    · obtain ⟨hbound, hword⟩ := bind_outcome hi h
      exact ⟨hword herr, eq_false_of_ne_true (mt hbound.mp herr)⟩
    · rintro rfl
      exact exec_clears_onull_of_err h herr
  · obtain ⟨x, hx⟩ := step_illegal hw hp
    exact ⟨_, hx, rfl, rfl, ⟨rfl, rfl⟩, ⟨rfl, rfl, rfl⟩, rfl, rfl⟩

/-- Settles O42: ERR = 0 excludes a raise. -/
theorem successLeavesTheStickyErrorRecord : Obligations.SuccessLeavesTheStickyErrorRecord :=
  fun _ _ _ => exec_completed

/-- Settles O43: the checks of each command raise its rows of R231, and a completed command leaves (0, 0). -/
theorem commandsRaiseOnlyTheirListedErrors : Obligations.CommandsRaiseOnlyTheirListedErrors := by
  intro i s t h
  by_cases herr : t.status.err = 0
  · obtain ⟨-, hcause, -, -⟩ := exec_completed h herr
    rw [herr, hcause]
    exact List.mem_cons_self
  · obtain ⟨e, he, rfl⟩ := exec_raises_listed h herr
    rw [s.raise_pair]
    exact List.mem_cons_of_mem _ he

end Sys2Proof.Proofs
end

section
/-! The copies of a platform (60_exceptions.md R247, 20_memory.md R61): each has the window at its own BASE, and neither
an access nor a step moves one or reaches a second. -/

namespace Sys2Proof.Machine

/-- BASE is 4 KiB times the page number (R61). -/
theorem BlockCopy.base_toNat (c : BlockCopy) : c.base.toNat = c.basePage.toNat * 0x1000 := by
  rw [BlockCopy.base, append_toNat, BitVec.toNat_ofNat]
  omega

/-- The window of a copy is the 0x1000 bytes at its BASE (R61). -/
theorem BlockCopy.covers_iff (c : BlockCopy) (a : PhysAccess) :
    c.covers a = true ↔ c.base.toNat ≤ a.addr.toNat ∧ a.addr.toNat < c.base.toNat + 0x1000 := by
  have haddr := a.addr.isLt
  rw [BlockCopy.covers, decide_eq_true_iff, c.base_toNat, ← BitVec.toNat_inj, BitVec.extractLsb'_toNat,
    Nat.shiftRight_eq_div_pow]
  omega

/-- The offset in a window, relative to BASE, is the low 12 bits of the address (R61). -/
theorem BlockCopy.offset_eq {c : BlockCopy} {addr : Reg64}
    (h : c.base.toNat ≤ addr.toNat ∧ addr.toNat < c.base.toNat + 0x1000) :
    addr.setWidth 12 = BitVec.ofNat 12 (addr.toNat - c.base.toNat) := by
  rw [← BitVec.toNat_inj, BitVec.toNat_setWidth, BitVec.toNat_ofNat]
  rw [c.base_toNat] at h ⊢
  omega

/-- No two copies have one page number (R247). -/
theorem Platform.index_eq_of_basePage {p : Platform} {j k : Nat} {c d : BlockCopy} (hc : p.copies[j]? = some c)
    (hd : p.copies[k]? = some d) (h : c.basePage = d.basePage) : j = k := by
  have hj : j < (p.copies.map BlockCopy.basePage).length := by
    rw [List.length_map]
    exact (List.getElem?_eq_some_iff.mp hc).1
  refine (List.getElem?_inj hj p.bases_nodup).mp ?_
  rw [List.getElem?_map, List.getElem?_map, hc, hd, Option.map_some, Option.map_some, h]

/-- An access changes a copy only by that copy's receiving it. -/
theorem Platform.deliver_getElem? (p : Platform) (a : PhysAccess) (k : Nat) :
    (p.deliver a).copies[k]? = p.copies[k]?.map (BlockCopy.receive a) := by
  rw [Platform.deliver_copies, List.getElem?_map]

/-- An access in the window of copy `k` changes no other copy, since no other has that page number (R247). -/
theorem Platform.deliver_getElem?_other {p : Platform} {a : PhysAccess} {j k : Nat} {c : BlockCopy}
    (hc : p.copies[k]? = some c) (h : c.covers a = true) (hjk : j ≠ k) :
    (p.deliver a).copies[j]? = p.copies[j]? := by
  rw [Platform.deliver_getElem?]
  cases hd : p.copies[j]? with
  | none => rfl
  | some d =>
    have hno : d.covers a = false := by
      refine eq_false_of_ne_true fun hyes => hjk (Platform.index_eq_of_basePage hd hc ?_)
      exact (of_decide_eq_true hyes).symm.trans (of_decide_eq_true h)
    rw [Option.map_some, BlockCopy.receive_of_not_covers hno]

/-- The same page numbers are the same BASEs. -/
theorem BlockCopy.map_base_of_map_basePage {cs ds : List BlockCopy}
    (h : cs.map BlockCopy.basePage = ds.map BlockCopy.basePage) : cs.map BlockCopy.base = ds.map BlockCopy.base := by
  have hbase : BlockCopy.base = (· ++ 0#12) ∘ BlockCopy.basePage := rfl
  rw [hbase, ← List.map_map, ← List.map_map, h]

/-- Receiving leaves a copy at its BASE. -/
theorem BlockCopy.receive_base (a : PhysAccess) (c : BlockCopy) : (c.receive a).base = c.base :=
  congrArg (· ++ 0#12) (c.receive_basePage a)

/-- A step of the block of copy `k` is a step of the platform, with the new block put back in its place (R247). -/
theorem Platform.stepCopy_of_step {p : Platform} {k : Fin p.copies.length} {b : State}
    (h : step p.copies[k].block = .next b) :
    p.stepCopy k = .next (p.withCopies (p.copies.set k { p.copies[k] with block := b }) (p.set_basePages k b)) := by
  unfold Platform.stepCopy
  rw [h]

end Sys2Proof.Machine

namespace Sys2Proof.Proofs

open Sys2Proof.Machine

/-- Settles O59: two windows that share an address have one page number, and a step puts back the block it took. -/
theorem copiesShareNothing : Obligations.CopiesShareNothing := by
  refine ⟨fun p => ⟨p.instances_pos, fun j k c d hc hd h => ?_⟩, fun p a k c hc => ⟨fun h => ?_, fun h => ?_⟩,
    fun a data c size h => ?_, fun p k b h => ?_, fun p a => ?_, fun p q k h => ?_⟩
  · refine Platform.index_eq_of_basePage hc hd (BitVec.eq_of_toNat_eq ?_)
    have hbase := congrArg BitVec.toNat h
    rw [c.base_toNat, d.base_toNat] at hbase
    omega
  · have hcov := (c.covers_iff a).mpr h
    refine ⟨?_, fun j hj => Platform.deliver_getElem?_other hc hcov hj⟩
    rw [Platform.deliver_getElem?, hc, Option.map_some, BlockCopy.receive_of_covers hcov]
  · have hcov := eq_false_of_ne_true (mt (c.covers_iff a).mp h)
    rw [Platform.deliver_getElem?, hc, Option.map_some, BlockCopy.receive_of_not_covers hcov]
  · rw [← BlockCopy.offset_eq h]
    exact ⟨rfl, rfl⟩
  · refine ⟨_, Platform.stepCopy_of_step h, ?_, fun m hm => ?_⟩
    · exact List.getElem?_set_self k.isLt
    · exact List.getElem?_set_ne (Ne.symm hm)
  · rw [Platform.deliver_copies, List.map_map]
    exact List.map_congr_left fun c _ => c.receive_base a
  · obtain ⟨b, -, hcopies⟩ := Platform.stepCopy_next h
    rw [hcopies]
    exact BlockCopy.map_base_of_map_basePage (p.set_basePages k b)

end Sys2Proof.Proofs
end

section
/-! The statements of 70_reset_and_hazards.md. -/

namespace Sys2Proof.Machine

/-- The reset signal served next leaves the reset state, and nothing of the state before it but what was sent after it
(R271, log entry 9). -/
theorem step_reset {s : State} {rest : List BusEvent} (hp : s.pending = .reset :: rest) :
    step s = .next { State.reset with pending := rest } :=
  step_cons hp

end Sys2Proof.Machine

namespace Sys2Proof.Proofs

open Sys2Proof.Machine

/-- Settles O8: the step ends in `State.reset` up to `pending`, so its registers hold what R42 states. -/
theorem resetSignalForgetsTheStateBefore : Obligations.ResetSignalForgetsTheStateBefore := by
  intro s rest hp
  obtain ⟨hcw, hlanes, hdesc, hstatus, hnullm, hecmd, hid⟩ := resetLeavesEveryRegisterAsStated
  exact ⟨_, step_reset hp, hcw, hlanes, hdesc, hstatus, hnullm, hecmd, hid, rfl⟩

end Sys2Proof.Proofs
end

section
/-! The one stop of the model (log entry 6): EXEC, bound to a descriptor that has no lane shape. -/

namespace Sys2Proof.Machine

/-- A descriptor has no lane shape exactly where its count is outside 1..16 or its N·W is above 128 (R8, R29). -/
theorem Desc.shape?_eq_none_iff (d : Desc) :
    d.shape? = none ↔ d.n.toNat < 1 ∨ d.n.toNat > 16 ∨ d.n.toNat * d.wc.bits > 128 := by
  constructor
  · intro hnone
    by_contra hout
    obtain ⟨hlo, hhi, hfits⟩ : 1 ≤ d.n.toNat ∧ d.n.toNat ≤ 16 ∧ d.n.toNat * d.wc.bits ≤ 128 := by omega
    have hsome := (d.shape?_eq_some ⟨d.wc, d.n.toNat, hlo, hhi, hfits⟩).mpr ⟨rfl, rfl⟩
    exact absurd (hnone.symm.trans hsome) nofun
  · intro hout
    refine Option.eq_none_iff_forall_ne_some.mpr fun sh hsh => ?_
    obtain ⟨hw, hn⟩ := (d.shape?_eq_some sh).mp hsh
    have hfits : sh.n * sh.w.bits ≤ 128 := sh.fits
    rw [hw, hn, ← or_assoc] at hout
    exact hout.elim sh.count_in_range (Nat.not_lt.mpr hfits)

/-- EXEC has no next state exactly where BOUND = 1 and DESC has no lane shape (R196, log entry 6). -/
theorem execExec_stops_iff (s : State) :
    (∀ t, execExec s ≠ .next t) ↔ s.status.bound = true ∧ s.desc.shape? = none := by
  constructor
  · intro hstop
    by_contra hshape
    obtain ⟨t, ht⟩ := execExec_answers s fun hb hnone => hshape ⟨hb, hnone⟩
    exact hstop t ht
  · rintro ⟨hb, hnone⟩ t ht
    exact absurd ((execExec_of_no_shape hb hnone).symm.trans ht) nofun

end Sys2Proof.Machine

namespace Sys2Proof.Proofs

open Sys2Proof.Machine

/-- Settles O11: every command but EXEC answers, and EXEC stops exactly where DESC is bound without a lane shape. -/
theorem execStopsOnlyOnABrokenDescriptor : Obligations.ExecStopsOnlyOnABrokenDescriptor := by
  intro i s
  rw [← s.desc.shape?_eq_none_iff]
  by_cases hi : i = .exec
  · subst hi
    exact (execExec_stops_iff s).trans (and_iff_right rfl).symm
  · obtain ⟨t, ht⟩ := exec_answers i s hi
    exact ⟨fun hstop => absurd ht (hstop t), fun ⟨hexec, _⟩ => absurd hexec hi⟩

end Sys2Proof.Proofs
end
